-- ==== Sys2Proof/Word.lean ====
section
/-! DEFINITION. The word types of the block (spec 00_scope.md R6, R9; 10_state.md R20-R24). Nothing in the
block is signed (R9), so plain bit vectors say all there is to say. -/

namespace Sys2Proof

/-- A memory byte or the content of a general register: 8 bits, unsigned (R20, R60). -/
abbrev Byte := BitVec 8

/-- A 16-bit quantity: an instruction word, PC, I, a stack entry (R23, R24, R26, R80). -/
abbrev Word := BitVec 16

/-- A 4-bit field of an instruction word: a register index, a sub-opcode or a sprite height (R81). -/
abbrev Nibble := BitVec 4

/-- The number of a general register: every value 0 to 15 names one (R20, R82). -/
abbrev RegIdx := Nibble

/-- A 12-bit immediate: an address 0 to 4095 (R82). -/
abbrev Imm12 := BitVec 12

/-- The register that doubles as the flag register, VF = V[15] (R21). -/
abbrev vF : RegIdx := 15#4

end Sys2Proof
end

