-- ==== Sys2Proof/Config.lean ====
section
/-! DEFINITION. What is fixed for a machine's lifetime (spec 00_scope.md R6-R8, 92_eei_decisions.md): the sizes the
source fixes, the configuration fields of R7, the open parameters of R8 and the random source of CXNN.

DESIGN CHOICE (assumption log 1, 2, 3), safe: each field and parameter is an OPAQUE constant without a body, so no
proof can see its value and whatever is proved holds for every value of it, as R8 asks. The model reads them only
through the accessors of Machine/Params.lean. -/

namespace Sys2Proof

/-- Memory size in bytes (R6). -/
def memSize : Nat := 4096

/-- The program's load address and the reset value of PC (R6). -/
def progBase : Nat := 0x200

/-- The highest address a fetch may start at (R6, R68). -/
def pcMax : Nat := 4094

/-- The bytes of the built-in font (R6, R61). -/
def fontSize : Nat := 80

/-- The largest program `load_program` accepts (R6, R283). -/
def maxProgram : Nat := 3584

/-- The two interpretations of the shifts and the block transfers (R7). -/
inductive Dialect where
  | legacy
  | modern
  deriving DecidableEq, Repr, Inhabited

/-- The three readings of the collision flag, `P_COLLISION` (44_display.md R203, D4). -/
inductive CollisionRule where
  | anyHit
  | lastSetBit
  | lastCell
  deriving DecidableEq, Repr, Inhabited

/-- Whether the decoder ignores the don't-care nibbles of the ambiguous band, `P_DECODE_LOOSE` (R87, D7). -/
inductive DecodeMode where
  | strict
  | loose
  deriving DecidableEq, Repr, Inhabited

/-- Whether 8XY0 and FX0A execute or do nothing, `P_UNLISTED` (R88, D8). -/
inductive Unlisted where
  | standard
  | noOp
  deriving DecidableEq, Repr, Inhabited

/-- `P_DIALECT` (R7). -/
opaque Config.dialect : Dialect

/-- `P_SCREEN_WRAP` (R7, R202). -/
opaque Config.screenWrap : Bool

/-- `P_SOUND_ENABLED` (R7, R249). -/
opaque Config.soundEnabled : Bool

/-- `P_COLLISION` (R203, D4). -/
opaque Config.collision : CollisionRule

/-- `P_VF_LAST` (R151, D5). -/
opaque Config.vfLast : Bool

/-- `P_LEGACY_SHIFT_VY` (R160, R162, D6). -/
opaque Config.legacyShiftVy : Bool

/-- `P_DECODE_LOOSE` (R87, D7). -/
opaque Config.decodeLoose : DecodeMode

/-- `P_UNLISTED` (R88, D8). -/
opaque Config.unlisted : Unlisted

/-- `P_SOUND_DEBOUNCE` less one: the threshold K is at least 1 (R248, D16), so any natural number here gives a legal K. -/
opaque Config.soundDebouncePred : Nat

/-- `P_FONT`, the 80 font bytes (R281, D20). -/
opaque Config.font : Vector Byte 80

/-- The byte the n-th execution of CXNN draws: a free value, under no law (42_alu.md R163, D25; log 3). -/
opaque Config.randomByte : Nat → Byte

/-- The conventional font, the DEFAULT of `P_FONT` in the table of 70_reset_and_hazards.md R281: glyph d at `5 * d`.
The model's font is the open parameter `Config.font`; this table is what a claim names when it wants the default. -/
def defaultFont : Vector Byte 80 := #v[
  0xF0, 0x90, 0x90, 0x90, 0xF0,  0x20, 0x60, 0x20, 0x20, 0x70,
  0xF0, 0x10, 0xF0, 0x80, 0xF0,  0xF0, 0x10, 0xF0, 0x10, 0xF0,
  0x90, 0x90, 0xF0, 0x10, 0x10,  0xF0, 0x80, 0xF0, 0x10, 0xF0,
  0xF0, 0x80, 0xF0, 0x90, 0xF0,  0xF0, 0x10, 0x20, 0x40, 0x40,
  0xF0, 0x90, 0xF0, 0x90, 0xF0,  0xF0, 0x90, 0xF0, 0x10, 0xF0,
  0xF0, 0x90, 0xF0, 0x90, 0x90,  0xE0, 0x90, 0xE0, 0x90, 0xE0,
  0xF0, 0x80, 0x80, 0x80, 0xF0,  0xE0, 0x90, 0x90, 0x90, 0xE0,
  0xF0, 0x80, 0xF0, 0x80, 0xF0,  0xF0, 0x80, 0xF0, 0x80, 0x80]

end Sys2Proof
end

