-- ==== Sys2Proof/Machine/Params.lean ====
section
/-! DEFINITION. The one place where the model reads its configuration and open parameters (spec 00_scope.md R7, R8).
Each name is the spec's `P_…`; each is the opaque constant of Config, so it stands for every value (log 1, 2). -/

namespace Sys2Proof.Machine

/-- `P_DIALECT` (R7). -/
def dialect : Dialect := Config.dialect

/-- `P_SCREEN_WRAP` (R7, R202). -/
def screenWrap : Bool := Config.screenWrap

/-- `P_SOUND_ENABLED` (R7, R249). -/
def soundEnabled : Bool := Config.soundEnabled

/-- `P_COLLISION` (R203). -/
def collision : CollisionRule := Config.collision

/-- `P_VF_LAST` (R151). -/
def vfLast : Bool := Config.vfLast

/-- `P_LEGACY_SHIFT_VY` (R160, R162). -/
def legacyShiftVy : Bool := Config.legacyShiftVy

/-- `P_DECODE_LOOSE` (R87). -/
def decodeMode : DecodeMode := Config.decodeLoose

/-- `P_UNLISTED` (R88). -/
def unlisted : Unlisted := Config.unlisted

/-- `P_SOUND_DEBOUNCE`, the threshold K, at least 1 (R248). -/
def soundDebounce : Nat := Config.soundDebouncePred + 1

/-- `P_FONT` (R281). -/
def font : Vector Byte 80 := Config.font

/-- The n-th byte of the random source (R163). -/
def randomByte (n : Nat) : Byte := Config.randomByte n

end Sys2Proof.Machine
end

