-- ==== Sys2Proof/Syntax.lean ====
section
/-! DEFINITION. The instructions: one constructor per row of spec/opcode_table.json, in its (decode) order, with the
operand fields that row's format names (30_encoding.md R81, R83, R84). -/

namespace Sys2Proof

/-- A decoded instruction (R84, R104). `x`, `y` are register numbers, `n`, `nn`, `nnn` the 4-, 8- and 12-bit
immediates. Each docstring gives the row's pattern and the rule of its effect. -/
inductive Instr where
  /-- 00E0 CLS (R200) -/
  | cls
  /-- 00EE RET (R120) -/
  | ret
  /-- 0NNN SYS addr (R130) -/
  | sys (nnn : Imm12)
  /-- 1NNN JP addr (R121) -/
  | jp (nnn : Imm12)
  /-- 2NNN CALL addr (R122) -/
  | call (nnn : Imm12)
  /-- 3XNN SE Vx, byte (R124) -/
  | seByte (x : RegIdx) (nn : Byte)
  /-- 4XNN SNE Vx, byte (R125) -/
  | sneByte (x : RegIdx) (nn : Byte)
  /-- 5XY0 SE Vx, Vy (R126) -/
  | seReg (x y : RegIdx)
  /-- 6XNN LD Vx, byte (R152) -/
  | ldByte (x : RegIdx) (nn : Byte)
  /-- 7XNN ADD Vx, byte (R153) -/
  | addByte (x : RegIdx) (nn : Byte)
  /-- 8XY0 LD Vx, Vy (R154) -/
  | ldReg (x y : RegIdx)
  /-- 8XY1 OR Vx, Vy (R155) -/
  | orReg (x y : RegIdx)
  /-- 8XY2 AND Vx, Vy (R156) -/
  | andReg (x y : RegIdx)
  /-- 8XY3 XOR Vx, Vy (R157) -/
  | xorReg (x y : RegIdx)
  /-- 8XY4 ADD Vx, Vy (R158) -/
  | addReg (x y : RegIdx)
  /-- 8XY5 SUB Vx, Vy (R159) -/
  | subReg (x y : RegIdx)
  /-- 8XY6 SHR Vx, Vy (R160) -/
  | shr (x y : RegIdx)
  /-- 8XY7 SUBN Vx, Vy (R161) -/
  | subnReg (x y : RegIdx)
  /-- 8XYE SHL Vx, Vy (R162) -/
  | shl (x y : RegIdx)
  /-- 9XY0 SNE Vx, Vy (R127) -/
  | sneReg (x y : RegIdx)
  /-- ANNN LD I, addr (R180) -/
  | ldI (nnn : Imm12)
  /-- BNNN JP V0, addr (R123) -/
  | jpV0 (nnn : Imm12)
  /-- CXNN RND Vx, byte (R163) -/
  | rnd (x : RegIdx) (nn : Byte)
  /-- DXYN DRW Vx, Vy, nibble (R204) -/
  | drw (x y : RegIdx) (n : Nibble)
  /-- EX9E SKP Vx (R128) -/
  | skp (x : RegIdx)
  /-- EXA1 SKNP Vx (R129) -/
  | sknp (x : RegIdx)
  /-- FX07 LD Vx, DT (R220) -/
  | ldVxDt (x : RegIdx)
  /-- FX0A LD Vx, K (R223) -/
  | ldVxK (x : RegIdx)
  /-- FX15 LD DT, Vx (R221) -/
  | ldDtVx (x : RegIdx)
  /-- FX18 LD ST, Vx (R222) -/
  | ldStVx (x : RegIdx)
  /-- FX1E ADD I, Vx (R181) -/
  | addIVx (x : RegIdx)
  /-- FX29 LD F, Vx (R182) -/
  | ldFVx (x : RegIdx)
  /-- FX33 LD B, Vx (R183) -/
  | ldBVx (x : RegIdx)
  /-- FX55 LD [I], Vx (R184) -/
  | ldMemVx (x : RegIdx)
  /-- FX65 LD Vx, [I] (R185) -/
  | ldVxMem (x : RegIdx)
  deriving DecidableEq, Repr

end Sys2Proof
end

