-- ==== Sys2Proof/WellFormed.lean ====
section
/-! DEFINITION. When a term of `Instr` is an instruction of the opcode map. The fields' types already bound every
operand (30_encoding.md R82), so the only ill-formed terms are the `sys` terms whose word belongs to CLS or RET
(R84 puts those rows first; 41_control_flow.md R130). -/

namespace Sys2Proof

/-- The 12-bit operands SYS cannot carry: the words 0x00E0 and 0x00EE are CLS and RET, and when the decoder is loose
so are all words 0xE0 and 0xEE with a non-zero X nibble (R130, R87). -/
def sysReserved (mode : DecodeMode) (nnn : Imm12) : Bool :=
  (nnn.extractLsb' 0 8 == 0xE0#8 || nnn.extractLsb' 0 8 == 0xEE#8) &&
    (nnn.extractLsb' 8 4 == 0#4 || mode == .loose)

/-- Well-formedness under one value of `P_DECODE_LOOSE`. -/
def wellFormedIn (mode : DecodeMode) : Instr → Bool
  | .sys nnn => !sysReserved mode nnn
  | .cls | .ret | .jp _ | .call _ | .seByte _ _ | .sneByte _ _ | .seReg _ _ | .ldByte _ _ | .addByte _ _
  | .ldReg _ _ | .orReg _ _ | .andReg _ _ | .xorReg _ _ | .addReg _ _ | .subReg _ _ | .shr _ _ | .subnReg _ _
  | .shl _ _ | .sneReg _ _ | .ldI _ | .jpV0 _ | .rnd _ _ | .drw _ _ _ | .skp _ | .sknp _ | .ldVxDt _ | .ldVxK _
  | .ldDtVx _ | .ldStVx _ | .addIVx _ | .ldFVx _ | .ldBVx _ | .ldMemVx _ | .ldVxMem _ => true

/-- Well-formedness for this machine's decoder. -/
def WellFormed (i : Instr) : Bool := wellFormedIn Machine.decodeMode i

end Sys2Proof
end

