-- ==== Sys2Proof/Decode.lean ====
section
/-! DEFINITION. Instruction encoding (spec 30_encoding.md): field extraction, the decoder, the encoder and the
opcode map. Every instruction is one 16-bit word, high byte first in memory (R80, R63). -/

namespace Sys2Proof

/-! ## Fields (R81) -/

/-- The instruction family p = w[15:12]. -/
def fieldP (w : Word) : Nibble := w.extractLsb' 12 4

/-- The first register index x = w[11:8]. -/
def fieldX (w : Word) : RegIdx := w.extractLsb' 8 4

/-- The second register index y = w[7:4]. -/
def fieldY (w : Word) : RegIdx := w.extractLsb' 4 4

/-- The 4-bit immediate n = w[3:0], also the 8-family's sub-opcode. -/
def fieldN (w : Word) : Nibble := w.extractLsb' 0 4

/-- The 8-bit immediate nn = w[7:0], also the E- and F-family's sub-opcode. -/
def fieldNN (w : Word) : Byte := w.extractLsb' 0 8

/-- The 12-bit immediate nnn = w[11:0]. -/
def fieldNNN (w : Word) : Imm12 := w.extractLsb' 0 12

/-! ## Decoder (R84-R87) -/

/-- Why bytes give no instruction. Both are safe: a step never sees `truncated`, and gives an unrecognized word the
effect the spec gives it (a no-op, R86). -/
inductive DecodeError where
  /-- Fewer than the two bytes of an instruction word (R80). -/
  | truncated
  /-- The word `w` matches no row of the opcode map (R85). -/
  | unrecognized (w : Word)
  deriving DecidableEq, Repr

/-- The 0-family: CLS, RET and, for every other word, SYS (R84, R130); a loose decoder ignores the X nibble of
CLS and RET (R87). -/
def decodeFamily0 (mode : DecodeMode) (w : Word) : Instr :=
  match fieldNN w with
  | 0xE0#8 => if fieldX w = 0#4 ∨ mode = .loose then .cls else .sys (fieldNNN w)
  | 0xEE#8 => if fieldX w = 0#4 ∨ mode = .loose then .ret else .sys (fieldNNN w)
  | _ => .sys (fieldNNN w)

/-- The 8-family, by its low nibble (R84). -/
def decodeFamily8 (w : Word) : Except DecodeError Instr :=
  match fieldN w with
  | 0x0#4 => .ok (.ldReg (fieldX w) (fieldY w))
  | 0x1#4 => .ok (.orReg (fieldX w) (fieldY w))
  | 0x2#4 => .ok (.andReg (fieldX w) (fieldY w))
  | 0x3#4 => .ok (.xorReg (fieldX w) (fieldY w))
  | 0x4#4 => .ok (.addReg (fieldX w) (fieldY w))
  | 0x5#4 => .ok (.subReg (fieldX w) (fieldY w))
  | 0x6#4 => .ok (.shr (fieldX w) (fieldY w))
  | 0x7#4 => .ok (.subnReg (fieldX w) (fieldY w))
  | 0xE#4 => .ok (.shl (fieldX w) (fieldY w))
  | _ => .error (.unrecognized w)

/-- The E-family, by its low byte (R84). -/
def decodeFamilyE (w : Word) : Except DecodeError Instr :=
  match fieldNN w with
  | 0x9E#8 => .ok (.skp (fieldX w))
  | 0xA1#8 => .ok (.sknp (fieldX w))
  | _ => .error (.unrecognized w)

/-- The F-family, by its low byte (R84). -/
def decodeFamilyF (w : Word) : Except DecodeError Instr :=
  match fieldNN w with
  | 0x07#8 => .ok (.ldVxDt (fieldX w))
  | 0x0A#8 => .ok (.ldVxK (fieldX w))
  | 0x15#8 => .ok (.ldDtVx (fieldX w))
  | 0x18#8 => .ok (.ldStVx (fieldX w))
  | 0x1E#8 => .ok (.addIVx (fieldX w))
  | 0x29#8 => .ok (.ldFVx (fieldX w))
  | 0x33#8 => .ok (.ldBVx (fieldX w))
  | 0x55#8 => .ok (.ldMemVx (fieldX w))
  | 0x65#8 => .ok (.ldVxMem (fieldX w))
  | _ => .error (.unrecognized w)

/-- Decoding under one value of `P_DECODE_LOOSE`: total on every word (R85), by family (R84). Only the words of the
ambiguous band depend on `mode` (R87). -/
def decodeIn (mode : DecodeMode) (w : Word) : Except DecodeError Instr :=
  match fieldP w with
  | 0x0#4 => .ok (decodeFamily0 mode w)
  | 0x1#4 => .ok (.jp (fieldNNN w))
  | 0x2#4 => .ok (.call (fieldNNN w))
  | 0x3#4 => .ok (.seByte (fieldX w) (fieldNN w))
  | 0x4#4 => .ok (.sneByte (fieldX w) (fieldNN w))
  | 0x5#4 => if fieldN w = 0#4 ∨ mode = .loose then .ok (.seReg (fieldX w) (fieldY w)) else .error (.unrecognized w)
  | 0x6#4 => .ok (.ldByte (fieldX w) (fieldNN w))
  | 0x7#4 => .ok (.addByte (fieldX w) (fieldNN w))
  | 0x8#4 => decodeFamily8 w
  | 0x9#4 => if fieldN w = 0#4 ∨ mode = .loose then .ok (.sneReg (fieldX w) (fieldY w)) else .error (.unrecognized w)
  | 0xA#4 => .ok (.ldI (fieldNNN w))
  | 0xB#4 => .ok (.jpV0 (fieldNNN w))
  | 0xC#4 => .ok (.rnd (fieldX w) (fieldNN w))
  | 0xD#4 => .ok (.drw (fieldX w) (fieldY w) (fieldN w))
  | 0xE#4 => decodeFamilyE w
  | 0xF#4 => decodeFamilyF w
  | _ => .error (.unrecognized w)

/-- This machine's decoder of one word. -/
def decodeWord (w : Word) : Except DecodeError Instr := decodeIn Machine.decodeMode w

/-- The word of two bytes, the one at the lower address the most significant (R63). -/
def bigEndian (hi lo : Byte) : Word := hi ++ lo

/-- This machine's decoder of a byte string: the first instruction and the bytes after it (R80). -/
def decode : List Byte → Except DecodeError (Instr × List Byte)
  | hi :: lo :: rest =>
    match decodeWord (bigEndian hi lo) with
    | .ok i => .ok (i, rest)
    | .error e => .error e
  | [_] => .error .truncated
  | [] => .error .truncated

/-! ## Encoder (R83, R90) -/

/-- The word of an instruction: its pattern in R83 and R84 with the operand fields filled in (R90). -/
def encode : Instr → Word
  | .cls => 0x00E0#16
  | .ret => 0x00EE#16
  | .sys nnn => 0x0#4 ++ nnn
  | .jp nnn => 0x1#4 ++ nnn
  | .call nnn => 0x2#4 ++ nnn
  | .seByte x nn => 0x3#4 ++ x ++ nn
  | .sneByte x nn => 0x4#4 ++ x ++ nn
  | .seReg x y => 0x5#4 ++ x ++ y ++ 0x0#4
  | .ldByte x nn => 0x6#4 ++ x ++ nn
  | .addByte x nn => 0x7#4 ++ x ++ nn
  | .ldReg x y => 0x8#4 ++ x ++ y ++ 0x0#4
  | .orReg x y => 0x8#4 ++ x ++ y ++ 0x1#4
  | .andReg x y => 0x8#4 ++ x ++ y ++ 0x2#4
  | .xorReg x y => 0x8#4 ++ x ++ y ++ 0x3#4
  | .addReg x y => 0x8#4 ++ x ++ y ++ 0x4#4
  | .subReg x y => 0x8#4 ++ x ++ y ++ 0x5#4
  | .shr x y => 0x8#4 ++ x ++ y ++ 0x6#4
  | .subnReg x y => 0x8#4 ++ x ++ y ++ 0x7#4
  | .shl x y => 0x8#4 ++ x ++ y ++ 0xE#4
  | .sneReg x y => 0x9#4 ++ x ++ y ++ 0x0#4
  | .ldI nnn => 0xA#4 ++ nnn
  | .jpV0 nnn => 0xB#4 ++ nnn
  | .rnd x nn => 0xC#4 ++ x ++ nn
  | .drw x y n => 0xD#4 ++ x ++ y ++ n
  | .skp x => 0xE#4 ++ x ++ 0x9E#8
  | .sknp x => 0xE#4 ++ x ++ 0xA1#8
  | .ldVxDt x => 0xF#4 ++ x ++ 0x07#8
  | .ldVxK x => 0xF#4 ++ x ++ 0x0A#8
  | .ldDtVx x => 0xF#4 ++ x ++ 0x15#8
  | .ldStVx x => 0xF#4 ++ x ++ 0x18#8
  | .addIVx x => 0xF#4 ++ x ++ 0x1E#8
  | .ldFVx x => 0xF#4 ++ x ++ 0x29#8
  | .ldBVx x => 0xF#4 ++ x ++ 0x33#8
  | .ldMemVx x => 0xF#4 ++ x ++ 0x55#8
  | .ldVxMem x => 0xF#4 ++ x ++ 0x65#8

/-- The high byte of a word, stored at the lower address (R63). -/
def highByte (w : Word) : Byte := w.extractLsb' 8 8

/-- The low byte of a word. -/
def lowByte (w : Word) : Byte := w.extractLsb' 0 8

/-- The bytes of an instruction as memory holds them (R63, R90). -/
def encodeBytes (i : Instr) : List Byte := [highByte (encode i), lowByte (encode i)]

/-! ## The opcode map as the spec prints it (R84) -/

/-- The rows (match, mask) of R84 in decode order. The decoder above is checked against it (Obligations). -/
def opcodeMap : List (Word × Word) :=
  [(0x00E0, 0xFFFF), (0x00EE, 0xFFFF), (0x0000, 0xF000), (0x1000, 0xF000), (0x2000, 0xF000), (0x3000, 0xF000),
   (0x4000, 0xF000), (0x5000, 0xF00F), (0x6000, 0xF000), (0x7000, 0xF000), (0x8000, 0xF00F), (0x8001, 0xF00F),
   (0x8002, 0xF00F), (0x8003, 0xF00F), (0x8004, 0xF00F), (0x8005, 0xF00F), (0x8006, 0xF00F), (0x8007, 0xF00F),
   (0x800E, 0xF00F), (0x9000, 0xF00F), (0xA000, 0xF000), (0xB000, 0xF000), (0xC000, 0xF000), (0xD000, 0xF000),
   (0xE09E, 0xF0FF), (0xE0A1, 0xF0FF), (0xF007, 0xF0FF), (0xF00A, 0xF0FF), (0xF015, 0xF0FF), (0xF018, 0xF0FF),
   (0xF01E, 0xF0FF), (0xF029, 0xF0FF), (0xF033, 0xF0FF), (0xF055, 0xF0FF), (0xF065, 0xF0FF)]

/-- The first row whose fixed bits the word has, `(w & mask) = match` (R84). -/
def firstRow (w : Word) : Option Nat := opcodeMap.findIdx? fun row => w &&& row.2 == row.1

/-- The row of the opcode map an instruction stands in (R84's decode order). -/
def rowOf : Instr → Nat
  | .cls => 0 | .ret => 1 | .sys _ => 2 | .jp _ => 3 | .call _ => 4 | .seByte _ _ => 5 | .sneByte _ _ => 6
  | .seReg _ _ => 7 | .ldByte _ _ => 8 | .addByte _ _ => 9 | .ldReg _ _ => 10 | .orReg _ _ => 11 | .andReg _ _ => 12
  | .xorReg _ _ => 13 | .addReg _ _ => 14 | .subReg _ _ => 15 | .shr _ _ => 16 | .subnReg _ _ => 17 | .shl _ _ => 18
  | .sneReg _ _ => 19 | .ldI _ => 20 | .jpV0 _ => 21 | .rnd _ _ => 22 | .drw _ _ _ => 23 | .skp _ => 24 | .sknp _ => 25
  | .ldVxDt _ => 26 | .ldVxK _ => 27 | .ldDtVx _ => 28 | .ldStVx _ => 29 | .addIVx _ => 30 | .ldFVx _ => 31
  | .ldBVx _ => 32 | .ldMemVx _ => 33 | .ldVxMem _ => 34

/-- The ambiguous band B of R87: 5XYn and 9XYn with n not 0, and 0xE0 and 0xEE with x not 0. -/
def inBand (w : Word) : Bool :=
  ((fieldP w == 0x5#4 || fieldP w == 0x9#4) && fieldN w != 0#4) ||
    (fieldP w == 0x0#4 && fieldX w != 0#4 && (fieldNN w == 0xE0#8 || fieldNN w == 0xEE#8))

/-! ## The host's numbering of table words -/

/-- What this machine's decoder reads from an instruction whose bits, numbered as spec/opcode_table.json numbers
them, are `w`: the instruction is one word, stored high byte first (R63, R80). -/
def decodeTableWord (nbits w : Nat) : Option Instr :=
  let word : Word := BitVec.ofNat 16 (w % 2 ^ nbits)
  match decode [highByte word, lowByte word] with
  | .ok (i, _) => some i
  | .error _ => none

end Sys2Proof
end

