-- ==== Sys2Proof/Machine/State.lean ====
section
/-! DEFINITION. The machine's state (spec 10_state.md R42, field by field), its reset value (R40, R282), the reasons a
step can stop, and one named update per piece of state. Plain data throughout. -/

namespace Sys2Proof.Machine

/-- The outcome of the most recent step (10_state.md R35, 60_exceptions.md R240). -/
inductive Status where
  /-- The step completed. -/
  | ok
  /-- "program counter left valid program space" -/
  | outOfBounds
  /-- "return with no matching call" -/
  | stackEmpty
  /-- "16 nested calls exceeded" -/
  | stackOverflow
  /-- "index-register-relative access would exceed memory" -/
  | illegalMemoryAccess
  deriving DecidableEq, Repr

/-- Why a step is not taken at all. An erring step is no fault of the model: it answers a next state with its status
(R106, R240; log 5). -/
inductive Fault where
  /-- Raised by `step`, and by the host operation `step`, in a state whose `faulted` mark is set: no step is offered
  until `reset` clears it (R36, R245). Safe: the model claims nothing of a driver that would go on. -/
  | halted
  deriving DecidableEq, Repr

/-- Why an instruction is refused. -/
inductive Refusal where
  /-- Raised by an arm of `exec` whose instruction has no meaning yet; no arm of this model raises it. Safe. -/
  | notModelled (mnemonic : String)
  deriving DecidableEq, Repr

/-- The memory array (20_memory.md R60) as a list of cells with strictly rising addresses below 4096, none of them
equal to what an unlisted address reads as (`Memory.wf` in Machine/Ops.lean; log 9). -/
abbrev Memory := List Host.Cell

/-- The display grid, 32 rows of 64 pixels, `true` for lit (R32). -/
abbrev Display := Vector (Vector Bool 64) 32

/-- The blank display (R32, R200). -/
def Display.blank : Display := Vector.replicate 32 (Vector.replicate 64 false)

/-- The machine state record of R42. -/
structure State where
  /-- V0..VF (R20) -/
  regs : Vector Byte 16
  /-- the index register I (R23) -/
  i : Word
  /-- the program counter PC (R24) -/
  pc : Word
  /-- the stack pointer SP, the number of entries in use (R27) -/
  sp : Fin 17
  /-- the call stack (R26) -/
  stack : Vector Word 16
  /-- the delay timer DT (R29) -/
  dt : Byte
  /-- the sound timer ST (R30) -/
  st : Byte
  /-- the sound debounce state snd_db (R31) -/
  sndDb : Option Nat
  /-- memory M (R60) -/
  mem : Memory
  /-- the display buffer (R32) -/
  disp : Display
  /-- the flag needs_redraw (R33) -/
  needsRedraw : Bool
  /-- the flag frame_nonblank (R33) -/
  frameNonblank : Bool
  /-- the host-owned key state (R34) -/
  keys : Vector Bool 16
  /-- the status register (R35) -/
  status : Status
  /-- the sticky mark of an erring step (R36) -/
  faulted : Bool
  /-- THE MODEL'S OWN, not the spec's: the number of random bytes drawn so far (R163, R41; log 3) -/
  draws : Nat
  deriving DecidableEq, Repr

/-- A newly constructed machine: the state `reset(false)` gives, keys all false (R40, R282). Memory lists nothing: an
unlisted address reads as the reset contents. `draws` starts at a DESIGN CHOICE of 0 (log 3). -/
def State.reset : State where
  regs := Vector.replicate 16 0
  i := 0
  pc := 0x200
  sp := 0
  stack := Vector.replicate 16 0
  dt := 0
  st := 0
  sndDb := none
  mem := []
  disp := Display.blank
  needsRedraw := false
  frameNonblank := false
  keys := Vector.replicate 16 false
  status := .ok
  faulted := false
  draws := 0

end Sys2Proof.Machine
end

