-- ==== Sys2Proof/Machine/Ops.lean ====
section
/-! DEFINITION. The named operations over registers, call stack, memory and status (spec 10_state.md, 20_memory.md,
40_pipeline.md R101-R107). Every access path is checked before it is issued (20_memory.md R62): a checked operation
answers `none` where its check fails, and touches nothing. -/

namespace Sys2Proof.Machine

/-! ## One named update per piece of state -/

/-- Read general register x (R10, R20). -/
def State.v (s : State) (x : RegIdx) : Byte := s.regs[x.toNat]'x.isLt

/-- Write general register x (R20, R22). -/
def State.setV (x : RegIdx) (b : Byte) (s : State) : State := { s with regs := s.regs.set x.toNat b x.isLt }

/-- Write I (R23). -/
def State.setI (w : Word) (s : State) : State := { s with i := w }

/-- Write PC (R24). -/
def State.setPc (w : Word) (s : State) : State := { s with pc := w }

/-- Write DT (R29). -/
def State.setDt (b : Byte) (s : State) : State := { s with dt := b }

/-- Write ST (R30). -/
def State.setSt (b : Byte) (s : State) : State := { s with st := b }

/-- Write the sound debounce state (R31). -/
def State.setSndDb (d : Option Nat) (s : State) : State := { s with sndDb := d }

/-- Replace memory (R60). -/
def State.setMem (m : Memory) (s : State) : State := { s with mem := m }

/-- Replace the call stack and its pointer together (R26, R27). -/
def State.setStack (k : Vector Word 16) (n : Fin 17) (s : State) : State := { s with stack := k, sp := n }

/-- Replace the display (R32). -/
def State.setDisp (d : Display) (s : State) : State := { s with disp := d }

/-- Write the two display flags (R33). -/
def State.setDisplayFlags (redraw nonblank : Bool) (s : State) : State :=
  { s with needsRedraw := redraw, frameNonblank := nonblank }

/-- Replace the key state (R34). -/
def State.setKeys (k : Vector Bool 16) (s : State) : State := { s with keys := k }

/-- Count one random byte as drawn (R163; log 3). -/
def State.countDraw (s : State) : State := { s with draws := s.draws + 1 }

/-- End a step with a status: it replaces the previous one (R107), and any status but Ok sets the sticky mark
(R36, R245). -/
def State.finish (st : Status) (s : State) : State :=
  { s with status := st, faulted := if st = .ok then s.faulted else true }

/-! ## Ending an instruction -/

/-- A step's outcome in this model. -/
abbrev Result := Host.Outcome State Fault Refusal

/-- `status <- Ok`: what a rule that does not raise ends with (R11). -/
def complete (s : State) : Result := .next (s.finish .ok)

/-- `raise S`: the step ends with status S and none of the instruction's writes (R11, R106). The block has no trap
entry beyond this: nothing is saved and control goes nowhere (60_exceptions.md R244), and there is no return from it
(R245). -/
def raise (st : Status) (s : State) : Result := .next (s.finish st)

/-- The numeric code of a status (R240, D24). -/
def statusCode : Status → Nat
  | .ok => 0
  | .outOfBounds => 1
  | .stackEmpty => 2
  | .stackOverflow => 3
  | .illegalMemoryAccess => 4

/-! ## Program counter -/

/-- Advance PC by one instruction, two bytes: the fetch advance (R103) and the skip's extra advance (R124). -/
def State.advance (s : State) : State := s.setPc (s.pc + 2#16)

/-- A skip: "Advance program counter by 2 extra bytes when the comparison holds" (R124). -/
def State.skipIf (cond : Bool) (s : State) : State := if cond then s.advance else s

/-- A, the address the current instruction was fetched from, seen during execute, where `PC = A + 2` (R11, R103). -/
def State.fetchedFrom (s : State) : Word := s.pc - 2#16

/-! ## Call stack (R28) -/

/-- `Push(v)`: `none` when SP = 16. -/
def State.push (v : Word) (s : State) : Option State :=
  if h : s.sp.val < 16 then some (s.setStack (s.stack.set s.sp.val v h) ⟨s.sp.val + 1, by omega⟩) else none

/-- `Pop()`: the popped entry and the state after, `none` when SP = 0. The entry itself stays in the array. -/
def State.pop (s : State) : Option (Word × State) :=
  if h : 0 < s.sp.val then
    some (s.stack[s.sp.val - 1]'(by omega), s.setStack s.stack ⟨s.sp.val - 1, by omega⟩)
  else none

/-! ## Memory (20_memory.md) -/

/-- What an address reads as before anything is written to it: the reset contents, the font in 0x000-0x04F and zero
above (R40, R61, R280, R281). -/
def Memory.initial (a : Nat) : Byte := if h : a < 80 then font[a] else 0

/-- `M[a]` (R10), for an address a < 4096: every caller has checked its addresses (R62, R67, R68). -/
def Memory.read : Memory → Nat → Byte
  | [], a => Memory.initial a
  | c :: m, a => if c.1 = a then c.2 else if a < c.1 then Memory.initial a else Memory.read m a

/-- The cell that must be listed for byte v at address a: none when v is what an unlisted a reads as. -/
def Memory.cell (a : Nat) (v : Byte) : Memory := if v = Memory.initial a then [] else [(a, v)]

/-- `M[a] <- v` (R10), for an address a < 4096, keeping the canonical form. -/
def Memory.write : Memory → Nat → Byte → Memory
  | [], a, v => Memory.cell a v
  | c :: m, a, v =>
    if a < c.1 then Memory.cell a v ++ c :: m
    else if a = c.1 then Memory.cell a v ++ m
    else c :: Memory.write m a v

/-- The canonical form: addresses strictly rising and below 4096, no cell equal to what its address would read as
unlisted. Equal memories are then equal lists. -/
abbrev Memory.wf (m : Memory) : Prop :=
  m.Pairwise (fun c d => c.1 < d.1) ∧ ∀ c ∈ m, c.1 < memSize ∧ c.2 ≠ Memory.initial c.1

/-- The n bytes from address a on, ascending (R64). -/
def Memory.readBytes (m : Memory) (a n : Nat) : List Byte := (List.range n).map fun k => m.read (a + k)

/-- Write bytes at ascending addresses from a on (R64). -/
def Memory.writeBytes : Memory → Nat → List Byte → Memory
  | m, _, [] => m
  | m, a, b :: bs => Memory.writeBytes (m.write a b) (a + 1) bs

/-- `InBounds(I, n)`: exact arithmetic, no 16-bit wrap (R67). -/
def inBounds (a : Word) (n : Nat) : Bool := decide (a.toNat + n ≤ memSize)

/-- Read n bytes through the index register, the whole range checked first (R67). -/
def State.loadBlock (s : State) (n : Nat) : Option (List Byte) :=
  if inBounds s.i n then some (s.mem.readBytes s.i.toNat n) else none

/-- Write bytes through the index register, the whole range checked first (R67). -/
def State.storeBlock (bs : List Byte) (s : State) : Option State :=
  if inBounds s.i bs.length then some (s.setMem (s.mem.writeBytes s.i.toNat bs)) else none

/-! ## Fetch (R63, R68, R101, R102) -/

/-- `Fetch16(a)`, big-endian (R63). -/
def Memory.fetch16 (m : Memory) (a : Nat) : Word := bigEndian (m.read a) (m.read (a + 1))

/-- The instruction word at PC; `none`, and no access, when PC is outside [0x200, 4094] (R68, R101). -/
def State.fetch (s : State) : Option Word :=
  if progBase ≤ s.pc.toNat ∧ s.pc.toNat ≤ pcMax then some (s.mem.fetch16 s.pc.toNat) else none

/-- Whether the host may take a step: not while `faulted` is set (R100, R245). -/
def State.mayStep (s : State) : Bool := !s.faulted

/-- Stage 0 fails: the step returns OutOfBounds and changes nothing else (R101). -/
def stepOutOfBounds (s : State) : Result := raise .outOfBounds s

/-- The effect of an unrecognized word: nothing but the fetch advance already made (R86). -/
def execUnrecognized (s : State) : Result := complete s

/-! ## Placing an instruction for the next fetch (the host's probe) -/

/-- s with the word w stored at PC, high byte first (R63), where the next step fetches it. -/
def State.placeWord (w : Word) (s : State) : State :=
  if progBase ≤ s.pc.toNat ∧ s.pc.toNat ≤ pcMax then
    s.setMem (s.mem.writeBytes s.pc.toNat [highByte w, lowByte w])
  else s

end Sys2Proof.Machine
end

