-- ==== Sys2Proof/Machine/Operands.lean ====
section
/-! DEFINITION. Operand forms (spec 30_encoding.md R82): every immediate is unsigned and zero-extended, a register
operand is read as it stands, a key operand is looked up in the host's key state, and a memory operand is the range
from I on (Ops: loadBlock, storeBlock). -/

namespace Sys2Proof.Machine

/-- A 12-bit address, zero-extended to the 16 bits of PC or I (R82). -/
def addrOperand (nnn : Imm12) : Word := nnn.setWidth 16

/-- A register value zero-extended to 16 bits (R123, R181, R182). -/
def State.v16 (s : State) (x : RegIdx) : Word := (s.v x).setWidth 16

/-- The state of the key a register names, `none` when the value is above 15 (R128, R129). -/
def State.keyOf (s : State) (x : RegIdx) : Option Bool := s.keys[(s.v x).toNat]?

/-- `min { k | keys[k] }`, `none` when no key is held (R223). -/
def State.lowestHeldKey (s : State) : Option Nat := s.keys.toList.findIdx? id

/-- How many registers V0..VX a block transfer moves: X + 1 (R64, R184, R185). -/
def blockCount (x : RegIdx) : Nat := x.toNat + 1

/-- The bytes V0..VX, the operand of the block store (R184). -/
def State.blockRegs (s : State) (x : RegIdx) : List Byte := s.regs.toList.take (blockCount x)

/-- Write bytes to the registers from number k on, ascending (R185). -/
def State.setRegs : Nat → List Byte → State → State
  | _, [], s => s
  | k, b :: bs, s => State.setRegs (k + 1) bs (s.setV (BitVec.ofNat 4 k) b)

/-- I after a block transfer of X + 1 bytes: advanced by the count under Legacy, modulo 2^16, unchanged under Modern
(R184, R185, D11). -/
def indexAfterBlock (d : Dialect) (i : Word) (x : RegIdx) : Word :=
  match d with
  | .legacy => i + BitVec.ofNat 16 (blockCount x)
  | .modern => i

/-- The register a shift reads: the second operand under Legacy, the first under Modern (R160, R162). -/
def shiftSource (d : Dialect) (x y : RegIdx) : RegIdx :=
  match d with
  | .legacy => y
  | .modern => x

/-- The decimal digits of a byte: hundreds, tens, ones (R183). -/
def bcdDigits (v : Byte) : List Byte :=
  [BitVec.ofNat 8 (v.toNat / 100), BitVec.ofNat 8 (v.toNat / 10 % 10), BitVec.ofNat 8 (v.toNat % 10)]

end Sys2Proof.Machine
end

