-- ==== Sys2Proof/Machine/Flags.lean ====
section
/-! DEFINITION. Flag computations (spec 42_alu.md R150, R151, R158-R162; 44_display.md R203): VF is the only flag (R39).
Each result is computed exactly and narrowed to 8 bits at the end (R150). -/

namespace Sys2Proof.Machine

/-- A flag as the byte VF holds: 1 or 0 (R158). -/
def flagByte (f : Bool) : Byte := if f then 1 else 0

/-- A result and its flag (R150). -/
structure AluOut where
  result : Byte
  flag : Bool
  deriving DecidableEq, Repr

/-- Addition: `trunc8(a + b)` and the carry `a + b > 255` (R150, R158). -/
def addCarry (a b : Byte) : AluOut :=
  let sum := a.toNat + b.toNat
  ⟨BitVec.ofNat 8 sum, decide (255 < sum)⟩

/-- Subtraction: `trunc8(a - b + 256)` and the strict comparison `a > b` (R159, R161, C5, D9). -/
def subNotBorrow (a b : Byte) : AluOut :=
  ⟨BitVec.ofNat 8 (a.toNat + 256 - b.toNat), decide (b.toNat < a.toNat)⟩

/-- Logical shift right by one and the bit shifted out, bit 0 (R160). -/
def shiftRight (a : Byte) : AluOut := ⟨BitVec.ofNat 8 (a.toNat / 2), a.getLsbD 0⟩

/-- Logical shift left by one and the bit shifted out, bit 7 (R162). -/
def shiftLeft (a : Byte) : AluOut := ⟨BitVec.ofNat 8 (a.toNat * 2), a.getLsbD 7⟩

/-- `WriteResultAndFlag(x, r, f)`; `last` is `P_VF_LAST`, which decides only where x is F (R151). -/
def State.writeResultAndFlag (last : Bool) (x : RegIdx) (out : AluOut) (s : State) : State :=
  if x ≠ vF then (s.setV x out.result).setV vF (flagByte out.flag)
  else if last then s.setV vF (flagByte out.flag)
  else s.setV vF out.result

/-- The Legacy shift's optional write of the result into Vy, before result and flag (R160, R162, D6). -/
def State.writeShiftedVy (d : Dialect) (writeVy : Bool) (y : RegIdx) (r : Byte) (s : State) : State :=
  if d = .legacy ∧ writeVy = true then s.setV y r else s

/-- What the blitter remembers of collisions: whether any was seen, and the last-write value (R203, R204). -/
structure Collision where
  hit : Bool
  last : Bool
  deriving DecidableEq, Repr

/-- Visit one cell: sprite bit `bit` over old pixel `old` (R204). -/
def Collision.visit (rule : CollisionRule) (bit old : Bool) (c : Collision) : Collision where
  hit := c.hit || (bit && old)
  last :=
    match rule with
    | .anyHit => c.last
    | .lastSetBit => if bit then old else c.last
    | .lastCell => bit && old

/-- The collision flag a draw leaves (R203, R204). -/
def Collision.flag (rule : CollisionRule) (c : Collision) : Bool :=
  match rule with
  | .anyHit => c.hit
  | .lastSetBit => c.last
  | .lastCell => c.last

end Sys2Proof.Machine
end

