-- ==== Sys2Proof/Machine/Alu.lean ====
section
/-! DEFINITION. Register loads and the ALU (spec 42_alu.md). No instruction here raises. Operands are read before any
register is written (00_scope.md R12, D14). -/

namespace Sys2Proof.Machine

/-- LD Vx, byte (R152). -/
def execLdByte (x : RegIdx) (nn : Byte) (s : State) : Result := complete (s.setV x nn)

/-- ADD Vx, byte: 8-bit wrapping, no flag (R153, C1). -/
def execAddByte (x : RegIdx) (nn : Byte) (s : State) : Result :=
  complete (s.setV x (BitVec.ofNat 8 ((s.v x).toNat + nn.toNat)))

/-- LD Vx, Vy under one value of `P_UNLISTED` (R154, R88): a move, or the no-op of an unrecognized word. -/
def State.moveUnlisted (u : Unlisted) (x y : RegIdx) (s : State) : State :=
  match u with
  | .standard => s.setV x (s.v y)
  | .noOp => s

/-- LD Vx, Vy (R154; log 6). -/
def execLdReg (x y : RegIdx) (s : State) : Result := complete (s.moveUnlisted unlisted x y)

/-- OR Vx, Vy: VF is not written (R155, D10). -/
def execOrReg (x y : RegIdx) (s : State) : Result := complete (s.setV x (s.v x ||| s.v y))

/-- AND Vx, Vy (R156). -/
def execAndReg (x y : RegIdx) (s : State) : Result := complete (s.setV x (s.v x &&& s.v y))

/-- XOR Vx, Vy (R157). -/
def execXorReg (x y : RegIdx) (s : State) : Result := complete (s.setV x (s.v x ^^^ s.v y))

/-- ADD Vx, Vy with carry (R158). -/
def execAddReg (x y : RegIdx) (s : State) : Result :=
  complete (s.writeResultAndFlag vfLast x (addCarry (s.v x) (s.v y)))

/-- SUB Vx, Vy (R159). -/
def execSubReg (x y : RegIdx) (s : State) : Result :=
  complete (s.writeResultAndFlag vfLast x (subNotBorrow (s.v x) (s.v y)))

/-- SUBN Vx, Vy (R161). -/
def execSubnReg (x y : RegIdx) (s : State) : Result :=
  complete (s.writeResultAndFlag vfLast x (subNotBorrow (s.v y) (s.v x)))

/-- A shift, its outcome `out` computed from the source register the dialect picks: Vy first where the Legacy
parameter says so, then result and flag (R160, R162). -/
def State.shiftWith (d : Dialect) (writeVy last : Bool) (op : Byte → AluOut) (x y : RegIdx) (s : State) : State :=
  let out := op (s.v (shiftSource d x y))
  (s.writeShiftedVy d writeVy y out.result).writeResultAndFlag last x out

/-- SHR Vx, Vy (R160). -/
def execShr (x y : RegIdx) (s : State) : Result :=
  complete (s.shiftWith dialect legacyShiftVy vfLast shiftRight x y)

/-- SHL Vx, Vy (R162). -/
def execShl (x y : RegIdx) (s : State) : Result :=
  complete (s.shiftWith dialect legacyShiftVy vfLast shiftLeft x y)

/-- RND Vx, byte (R163): the drawn byte is a free value, a fresh one each time (log 3). -/
def execRnd (x : RegIdx) (nn : Byte) (s : State) : Result :=
  complete ((s.setV x (randomByte s.draws &&& nn)).countDraw)

end Sys2Proof.Machine
end

