-- ==== Sys2Proof/Machine/ControlFlow.lean ====
section
/-! DEFINITION. Control flow, skips and key tests (spec 41_control_flow.md). On entry `PC = A + 2` (40_pipeline.md R103). -/

namespace Sys2Proof.Machine

/-- RET (R120). -/
def execRet (s : State) : Result :=
  match s.pop with
  | none => raise .stackEmpty s
  | some (target, s') => complete (s'.setPc target)

/-- SYS addr: a no-op; its operand is ignored (R130). -/
def execSys (_nnn : Imm12) (s : State) : Result := complete s

/-- JP addr (R121): the target is not checked here (R131). -/
def execJp (nnn : Imm12) (s : State) : Result := complete (s.setPc (addrOperand nnn))

/-- CALL addr (R122): pushes PC, which is A + 2. -/
def execCall (nnn : Imm12) (s : State) : Result :=
  match s.push s.pc with
  | none => raise .stackOverflow s
  | some s' => complete (s'.setPc (addrOperand nnn))

/-- SE Vx, byte (R124). -/
def execSeByte (x : RegIdx) (nn : Byte) (s : State) : Result := complete (s.skipIf (s.v x == nn))

/-- SNE Vx, byte (R125). -/
def execSneByte (x : RegIdx) (nn : Byte) (s : State) : Result := complete (s.skipIf (s.v x != nn))

/-- SE Vx, Vy (R126). -/
def execSeReg (x y : RegIdx) (s : State) : Result := complete (s.skipIf (s.v x == s.v y))

/-- SNE Vx, Vy (R127). -/
def execSneReg (x y : RegIdx) (s : State) : Result := complete (s.skipIf (s.v x != s.v y))

/-- JP V0, addr (R123): always register 0, no 16-bit wrap. -/
def execJpV0 (nnn : Imm12) (s : State) : Result := complete (s.setPc (addrOperand nnn + s.v16 0#4))

/-- SKP Vx (R128): a register value above 15 never skips. -/
def execSkp (x : RegIdx) (s : State) : Result := complete (s.skipIf (s.keyOf x == some true))

/-- SKNP Vx (R129): a register value above 15 never skips here either. -/
def execSknp (x : RegIdx) (s : State) : Result := complete (s.skipIf (s.keyOf x == some false))

end Sys2Proof.Machine
end

