-- ==== Sys2Proof/Machine/Display.lean ====
section
/-! DEFINITION. Clear screen and the sprite blitter (spec 44_display.md). -/

namespace Sys2Proof.Machine

/-- The pixel at row r, column c (R32). -/
def Display.pixel (d : Display) (r : Fin 32) (c : Fin 64) : Bool := d[r.val][c.val]

/-- Toggle the pixel at row r, column c where the sprite bit is 1: exclusive-OR compositing (R204). -/
def Display.xorPixel (d : Display) (r : Fin 32) (c : Fin 64) (bit : Bool) : Display :=
  if bit then d.set r.val (d[r.val].set c.val (!d.pixel r c)) else d

/-- Where a coordinate lands on an axis of `size` cells, the sum being exact: modulo the size when the screen wraps,
else `none` from the edge on (R202). -/
def onAxis (wrap : Bool) (size : Nat) (h : 0 < size) (k : Nat) : Option (Fin size) :=
  if wrap then some ⟨k % size, Nat.mod_lt k h⟩ else if hk : k < size then some ⟨k, hk⟩ else none

/-- The display row of sprite row r drawn from y0 (R201, R202). -/
def rowAt (wrap : Bool) (y0 r : Nat) : Option (Fin 32) := onAxis wrap 32 (by decide) (y0 + r)

/-- The display column of sprite column c drawn from x0 (R201, R202). -/
def columnAt (wrap : Bool) (x0 c : Nat) : Option (Fin 64) := onAxis wrap 64 (by decide) (x0 + c)

/-- Sprite column c of a sprite byte: the most significant bit is the leftmost column (R201). -/
def spriteBit (b : Byte) (c : Nat) : Bool := b.getLsbD (7 - c)

/-- The blitter's state: the display and what it has seen of collisions (R204). -/
structure Blit where
  disp : Display
  coll : Collision
  deriving DecidableEq, Repr

/-- Visit one cell (R204). -/
def Blit.cell (rule : CollisionRule) (row : Fin 32) (col : Fin 64) (bit : Bool) (t : Blit) : Blit where
  disp := t.disp.xorPixel row col bit
  coll := t.coll.visit rule bit (t.disp.pixel row col)

/-- The column loop over the remaining sprite columns, ended by the first one off the screen (R202, R204). -/
def Blit.columns (wrap : Bool) (rule : CollisionRule) (row : Fin 32) (x0 : Nat) (b : Byte) : List Nat → Blit → Blit
  | [], t => t
  | c :: cs, t =>
    match columnAt wrap x0 c with
    | none => t
    | some col => Blit.columns wrap rule row x0 b cs (t.cell rule row col (spriteBit b c))

/-- The row loop over the remaining sprite bytes from sprite row r on, ended by the first row off the screen. -/
def Blit.rows (wrap : Bool) (rule : CollisionRule) (x0 y0 : Nat) : Nat → List Byte → Blit → Blit
  | _, [], t => t
  | r, b :: bs, t =>
    match rowAt wrap y0 r with
    | none => t
    | some row => Blit.rows wrap rule x0 y0 (r + 1) bs (t.columns wrap rule row x0 b (List.range 8))

/-- Draw a sprite with its origin at column x0, row y0 (R201-R204). -/
def blit (wrap : Bool) (rule : CollisionRule) (x0 y0 : Nat) (sprite : List Byte) (d : Display) : Blit :=
  Blit.rows wrap rule x0 y0 0 sprite ⟨d, ⟨false, false⟩⟩

/-- The state after a successful draw: the display, VF and both display flags (R204). -/
def State.drawSprite (wrap : Bool) (rule : CollisionRule) (x y : RegIdx) (sprite : List Byte) (s : State) : State :=
  let t := blit wrap rule (s.v x).toNat (s.v y).toNat sprite s.disp
  ((s.setDisp t.disp).setV vF (flagByte (t.coll.flag rule))).setDisplayFlags true true

/-- CLS (R200): frame_nonblank is left as it was (D15). -/
def execCls (s : State) : Result := complete ((s.setDisp Display.blank).setDisplayFlags true s.frameNonblank)

/-- DRW Vx, Vy, nibble (R204): all N rows are checked before anything else, even rows clipping would skip. -/
def execDrw (x y : RegIdx) (n : Nibble) (s : State) : Result :=
  match s.loadBlock n.toNat with
  | none => raise .illegalMemoryAccess s
  | some sprite => complete (s.drawSprite screenWrap collision x y sprite)

end Sys2Proof.Machine
end

