-- ==== Sys2Proof/Machine/IndexMemory.lean ====
section
/-! DEFINITION. The index register and memory transfers (spec 43_index_memory.md). The range of a transfer is checked as
a whole before any access (20_memory.md R67). -/

namespace Sys2Proof.Machine

/-- LD I, addr (R180). -/
def execLdI (nnn : Imm12) (s : State) : Result := complete (s.setI (addrOperand nnn))

/-- ADD I, Vx: modulo 2^16, VF not written (R181, D11). -/
def execAddIVx (x : RegIdx) (s : State) : Result := complete (s.setI (s.i + s.v16 x))

/-- LD F, Vx: the register value times 5, not masked (R182). -/
def execLdFVx (x : RegIdx) (s : State) : Result := complete (s.setI (s.v16 x * 5#16))

/-- LD B, Vx (R183). -/
def execLdBVx (x : RegIdx) (s : State) : Result :=
  match s.storeBlock (bcdDigits (s.v x)) with
  | none => raise .illegalMemoryAccess s
  | some s' => complete s'

/-- LD [I], Vx (R184). -/
def execLdMemVx (x : RegIdx) (s : State) : Result :=
  match s.storeBlock (s.blockRegs x) with
  | none => raise .illegalMemoryAccess s
  | some s' => complete (s'.setI (indexAfterBlock dialect s.i x))

/-- LD Vx, [I] (R185). -/
def execLdVxMem (x : RegIdx) (s : State) : Result :=
  match s.loadBlock (blockCount x) with
  | none => raise .illegalMemoryAccess s
  | some bytes => complete ((s.setRegs 0 bytes).setI (indexAfterBlock dialect s.i x))

end Sys2Proof.Machine
end

