-- ==== Sys2Proof/Machine/TimersKeys.lean ====
section
/-! DEFINITION. Timer access and wait-for-key (spec 45_timers_keys.md). None of these raises. -/

namespace Sys2Proof.Machine

/-- LD Vx, DT (R220). -/
def execLdVxDt (x : RegIdx) (s : State) : Result := complete (s.setV x s.dt)

/-- LD DT, Vx (R221). -/
def execLdDtVx (x : RegIdx) (s : State) : Result := complete (s.setDt (s.v x))

/-- LD ST, Vx: the debounce state is not touched (R222). -/
def execLdStVx (x : RegIdx) (s : State) : Result := complete (s.setSt (s.v x))

/-- LD Vx, K under one value of `P_UNLISTED` (R223, R88): the lowest held key into Vx, or PC back to A so that the
next step executes the instruction again; or the no-op of an unrecognized word. -/
def State.waitKey (u : Unlisted) (x : RegIdx) (s : State) : State :=
  match u with
  | .standard =>
    match s.lowestHeldKey with
    | some k => s.setV x (BitVec.ofNat 8 k)
    | none => s.setPc s.fetchedFrom
  | .noOp => s

/-- LD Vx, K (R223; log 6). -/
def execLdVxK (x : RegIdx) (s : State) : Result := complete (s.waitKey unlisted x)

end Sys2Proof.Machine
end

