-- ==== Sys2Proof/Machine/Step.lean ====
section
/-! DEFINITION. The fetch-decode-execute step (spec 40_pipeline.md R100). -/

namespace Sys2Proof.Machine

/-- `step()` (R100): not taken while `faulted` is set (R245); stage 0 checks PC and stage 1 fetches (R101, R102), stage 2
advances PC (R103), stage 3 decodes (R104), stage 4 executes (R105), an unrecognized word being a no-op (R86). -/
def step (s : State) : Host.Outcome State Fault Refusal :=
  if s.mayStep then
    match s.fetch with
    | none => stepOutOfBounds s
    | some w =>
      match decodeWord w with
      | .ok i => exec i s.advance
      | .error _ => execUnrecognized s.advance
  else .fault .halted

/-- s with the table word w stored where `step` fetches its next instruction, PC itself: a program is loaded from
outside the machine, by `load_program` (R283; log 15). -/
def State.withFetchWord (s : State) (nbits w : Nat) : State := s.placeWord (BitVec.ofNat 16 (w % 2 ^ nbits))

end Sys2Proof.Machine
end

