-- ==== Sys2Proof/Machine/Driver.lean ====
section
/-! DEFINITION. The host interface and the timer driver (spec 60_exceptions.md R247-R253, 70_reset_and_hazards.md
R280-R284): the seven operations the core exposes, each one atomic transaction between steps (00_scope.md R5). Which
operation the host calls next is free (R251, D28; log 13). -/

namespace Sys2Proof.Machine

/-! ## Reset and program load -/

/-- Memory after a reset: everything to its reset contents, or, when preserving, only the font area, which is always
reloaded (R280, R281). A cell dropped from the list reads as the reset contents. -/
def Memory.afterReset (preserve : Bool) (m : Memory) : Memory :=
  if preserve then m.filter fun c => decide (fontSize ≤ c.1) else []

/-- `reset(preserve_program)` (R280): keys and configuration are not touched; the model's own draw counter goes on, so
that draws after a reset are fresh (log 3). -/
def State.hostReset (preserve : Bool) (s : State) : State :=
  { State.reset with mem := s.mem.afterReset preserve, keys := s.keys, draws := s.draws }

/-- `load_program(bytes)` (R283): `none` is `Err(TooLarge)`; else the bytes stand from 0x200 on and nothing else
changes. -/
def State.loadProgram (bytes : List Byte) (s : State) : Option State :=
  if bytes.length ≤ maxProgram then some (s.setMem (s.mem.writeBytes progBase bytes)) else none

/-! ## Timers -/

/-- The signal "play sound" (R248). -/
inductive Signal where
  | play
  deriving DecidableEq, Repr

/-- `if DT > 0: DT <- DT - 1` (R247). -/
def tickDelay (dt : Byte) : Byte := BitVec.ofNat 8 (dt.toNat - 1)

/-- Whether a tick that sees ST > 0 signals: no signal yet since ST was last zero, or K ticks since the last (R248). -/
def debounceOpen (k : Nat) (db : Option Nat) : Bool :=
  match db with
  | none => true
  | some n => decide (k ≤ n)

/-- The debounce state after a tick that sees ST > 0 and leaves `st'` (R248). -/
def debounceAfter (k : Nat) (db : Option Nat) (st' : Byte) : Option Nat :=
  if st' = 0 then none else if debounceOpen k db then some 1 else db.map (· + 1)

/-- `tick_timers()` under threshold k (R247-R249): the signal and the state after. `enabled` suppresses the signal
alone. -/
def State.tickWith (k : Nat) (enabled : Bool) (s : State) : Option Signal × State :=
  let s1 := s.setDt (tickDelay s.dt)
  if 0 < s.st.toNat then
    let st' := BitVec.ofNat 8 (s.st.toNat - 1)
    (if debounceOpen k s.sndDb && enabled then some .play else none,
      (s1.setSt st').setSndDb (debounceAfter k s.sndDb st'))
  else (none, s1.setSndDb none)

/-- `tick_timers()` of this machine (R247-R249). -/
def State.tickTimers (s : State) : Option Signal × State := s.tickWith soundDebounce soundEnabled

/-! ## Display and keys -/

/-- `consume_dirty_flags()` (R253): the pair as it was, and the state with both cleared. -/
def State.consumeDirtyFlags (s : State) : (Bool × Bool) × State :=
  ((s.needsRedraw, s.frameNonblank), s.setDisplayFlags false false)

/-- `set_key(index, held)` (R253); an index outside 0..15 is no call of the host's (D26; log 14). -/
def State.setKey (index : Fin 16) (held : Bool) (s : State) : State := s.setKeys (s.keys.set index.val held)

/-! ## One transaction -/

/-- What the host may call (R253). -/
inductive HostOp where
  | reset (preserve : Bool)
  | loadProgram (bytes : List Byte)
  | step
  | tickTimers
  | display
  | consumeDirtyFlags
  | setKey (index : Fin 16) (held : Bool)
  deriving DecidableEq, Repr

/-- What the host gets back (R253). -/
inductive HostReply where
  | nothing
  | loaded
  | tooLarge
  | status (st : Status)
  | signal (sig : Option Signal)
  | grid (d : Display)
  | dirtyFlags (needsRedraw frameNonblank : Bool)
  deriving DecidableEq, Repr

/-- The host's `step`: it returns the status the step stored (R35, R107). -/
def hostStep (s : State) : Host.Outcome (HostReply × State) Fault Refusal :=
  match step s with
  | .next t => .next (.status t.status, t)
  | .fault f => .fault f
  | .refused r => .refused r

/-- The host's `load_program`. -/
def hostLoad (bytes : List Byte) (s : State) : HostReply × State :=
  match s.loadProgram bytes with
  | some t => (.loaded, t)
  | none => (.tooLarge, s)

/-- One host operation (R253): its reply and the state after. -/
def transact (op : HostOp) (s : State) : Host.Outcome (HostReply × State) Fault Refusal :=
  match op with
  | .reset preserve => .next (.nothing, s.hostReset preserve)
  | .loadProgram bytes => .next (hostLoad bytes s)
  | .step => hostStep s
  | .tickTimers => .next (.signal s.tickTimers.1, s.tickTimers.2)
  | .display => .next (.grid s.disp, s)
  | .consumeDirtyFlags => .next (.dirtyFlags s.needsRedraw s.frameNonblank, s.consumeDirtyFlags.2)
  | .setKey index held => .next (.nothing, s.setKey index held)

end Sys2Proof.Machine
end

