-- ==== Sys2Proof/Safety.lean ====
section
/-! DEFINITION. What claims about runs are stated in: the machine's invariant, the states a host can reach, the end of
a run, and what a program cannot see. -/

namespace Sys2Proof.Machine

/-- The status register and the sticky mark agree: every step overwrites the status, and no step follows an erring one
(10_state.md R35, R36). -/
def State.markAgrees (s : State) : Prop := s.faulted = true ↔ s.status ≠ .ok

/-- PC never exceeds 0x10FE and no pushed return address exceeds 0x1000 (R25). -/
def State.pcBounded (s : State) : Prop := s.pc.toNat ≤ 0x10FE ∧ ∀ k : Fin 16, s.stack[k.val].toNat ≤ 0x1000

/-- The debounce count lies between 1 and the threshold K (R248). -/
def State.debounceBounded (s : State) : Prop := ∀ k, s.sndDb = some k → 1 ≤ k ∧ k ≤ soundDebounce

/-- The invariant of the machine: memory in canonical form, mark and status agree, PC and return addresses bounded, the
debounce count bounded. -/
def State.Inv (s : State) : Prop := Memory.wf s.mem ∧ s.markAgrees ∧ s.pcBounded ∧ s.debounceBounded

/-- The states some host can bring the machine to, by any interleaving of its operations (R251, R253). -/
inductive Reachable : State → Prop where
  | reset : Reachable State.reset
  | op {s t : State} {o : HostOp} {r : HostReply} : Reachable s → transact o s = .next (r, t) → Reachable t

/-- A successful end of a run: not faulted, and the fetched word is `0x1000 | PC`, a jump to itself (R257). -/
def State.atSelfJump (s : State) : Prop := s.faulted = false ∧ s.fetch = some (0x1000#16 ||| s.pc)

/-- Calls one inside the other, each entered with the PC the one before left; `none` when one does not end Ok. -/
def callChain : List Imm12 → State → Option State
  | [], s => some s
  | nnn :: calls, s =>
    match exec (.call nnn) s with
    | .next t => if t.status = .ok then callChain calls t else none
    | .fault _ => none
    | .refused _ => none

/-- As many returns, one after the other; `none` when one does not end Ok. -/
def returnChain : Nat → State → Option State
  | 0, s => some s
  | n + 1, s =>
    match returnChain n s with
    | none => none
    | some t =>
      match exec .ret t with
      | .next u => if u.status = .ok then some u else none
      | .fault _ => none
      | .refused _ => none

/-- Two states differ at most in what no instruction reads: ST, the debounce state, the display flags, the status and
the mark (R30, R31, R33, R35). -/
def SameButUnread (s t : State) : Prop :=
  t = { s with
    st := t.st, sndDb := t.sndDb, needsRedraw := t.needsRedraw, frameNonblank := t.frameNonblank
    status := t.status, faulted := t.faulted }

/-- Every byte of memory outside the n bytes from address a on reads the same in both memories. -/
def SameBytesOutside (a n : Nat) (m m' : Memory) : Prop :=
  ∀ b, b < memSize → (b < a ∨ a + n ≤ b) → m'.read b = m.read b

/-- Only these registers may differ between the two states' register files. -/
def SameRegsBut (xs : List RegIdx) (s t : State) : Prop := ∀ r, r ∉ xs → t.v r = s.v r

/-! ## The draw, cell by cell

The closed form of 44_display.md R201-R203 that the blitter's loops are held against. -/

/-- A visited cell: sprite row and column, display row and column. -/
abbrev Cell := Nat × Nat × Fin 32 × Fin 64

/-- Where sprite cell (r, c) of a sprite drawn from (x0, y0) lands: wrapped modulo 32 and 64, or, without wrapping,
on the screen only (R202). -/
def cellOf (wrap : Bool) (x0 y0 r c : Nat) : Option Cell :=
  if wrap then
    some (r, c, ⟨(y0 + r) % 32, Nat.mod_lt _ (by decide)⟩, ⟨(x0 + c) % 64, Nat.mod_lt _ (by decide)⟩)
  else if h : y0 + r < 32 ∧ x0 + c < 64 then some (r, c, ⟨y0 + r, h.1⟩, ⟨x0 + c, h.2⟩)
  else none

/-- The cells a sprite of n rows drawn from (x0, y0) visits, in source order: row-major, top to bottom, left to right
(R201, R202). -/
def visitedCells (wrap : Bool) (x0 y0 n : Nat) : List Cell :=
  (List.range n).flatMap fun r => (List.range 8).filterMap fun c => cellOf wrap x0 y0 r c

/-- The sprite bit of sprite row r, column c of the sprite at address a: bit 7 - c of byte `M[a + r]` (R201). -/
def spriteBitAt (m : Memory) (a r c : Nat) : Bool := (m.read (a + r)).getLsbD (7 - c)

/-- The collision flag by R203, from the display before the draw. -/
def collisionByRule (rule : CollisionRule) (bit : Nat → Nat → Bool) (d : Display) (cells : List Cell) : Bool :=
  match rule with
  | .anyHit => cells.any fun (r, c, row, col) => bit r c && d.pixel row col
  | .lastSetBit =>
    match (cells.filter fun (r, c, _, _) => bit r c).getLast? with
    | some (_, _, row, col) => d.pixel row col
    | none => false
  | .lastCell =>
    match cells.getLast? with
    | some (r, c, row, col) => bit r c && d.pixel row col
    | none => false

/-! ## The timer driver over many ticks -/

/-- Whether a timer tick in this state gives the sound signal (R248). -/
def State.tickSignals (s : State) : Prop := s.tickTimers.1 = some .play

/-- A run of host operations from one state to another with n timer ticks in it, none of which leaves ST at 0. Between
the ticks anything but a reset may run, as often as the host likes and in any order: steps, an FX18 that rewrites ST
among them, program loads, key changes (R251, D28). -/
inductive TicksApart : Nat → State → State → Prop where
  | start (s : State) : TicksApart 0 s s
  | tick {n : Nat} {s t : State} :
    TicksApart n s t → t.tickTimers.2.st ≠ 0 → TicksApart (n + 1) s t.tickTimers.2
  | other {n : Nat} {s t u : State} {o : HostOp} {r : HostReply} :
    TicksApart n s t → o ≠ .tickTimers → (∀ p, o ≠ .reset p) → transact o t = .next (r, u) → TicksApart n s u

end Sys2Proof.Machine
end

