-- ==== Sys2Proof/Certificates/Slice0/Obligations.lean ====
section
/-! DEFINITION. The statements for the provers. `exec` is entered with `PC = A + 2`, A being the instruction's own
address (40_pipeline.md R103). An equation `t = { s with … := t.…, … }` is a statement's frame: every piece of state it
does not name is unchanged, memory and so every byte of it among them. Where a rule branches on an open parameter, so
does the statement; the parameters are opaque, so each branch is claimed. -/

open Sys2Proof Sys2Proof.Machine

/-! ## Encoding -/

/-- Decoding the encoding of a well-formed instruction gives it back, whatever bytes follow (30_encoding.md R80, R83,
R90; the encodings are the spec's own decision D21). -/
def Obligations.DecodeOfEncodeIsIdentity : Prop :=
  ∀ (i : Instr) (rest : List Byte), WellFormed i = true →
    decodeWord (encode i) = .ok i ∧ decode (encodeBytes i ++ rest) = .ok (i, rest)

/-- The decoder is the opcode map of R84 read top to bottom: under strict decoding every word decodes to the first row
whose fixed bits match, with every operand bit kept, or to nothing where no row matches; the only words two rows
match are CLS and RET inside SYS. The map is the spec's own decision D21. Two readings are the model's (DEDUCED): 0xE0 and
0xEE with x not 0 are SYS, the no-op, where R87 calls them Unrecognized under Strict (log 7), and 8XY0 and FX0A decode
whatever `P_UNLISTED` is, which R88 calls Unrecognized under NoOp and the model makes no-ops at execute (log 6). -/
def Obligations.DecoderFollowsOpcodeMap : Prop :=
  (∀ w : Word,
    match decodeIn .strict w with
    | .ok i => firstRow w = some (rowOf i) ∧ encode i = w
    | .error e => e = .unrecognized w ∧ firstRow w = none) ∧
  ∀ (j k : Fin 35) (w : Word), j < k →
    (∃ row, opcodeMap[j.val]? = some row ∧ w &&& row.2 = row.1) →
    (∃ row, opcodeMap[k.val]? = some row ∧ w &&& row.2 = row.1) →
    (j.val = 0 ∨ j.val = 1) ∧ k.val = 2

/-- The ambiguous band (R87, D7): only its words depend on `P_DECODE_LOOSE`. Loose, they decode as the row with the
don't-care nibble ignored. Strict, 5XYn and 9XYn are unrecognized, and 0xE0 and 0xEE are the no-op SYS, as R84, R86 and
R130 have it (the model's reading of R87's word "Unrecognized" for them, a DEDUCED choice: log 7). -/
def Obligations.BandDecodesByParameter : Prop :=
  (∀ w : Word, inBand w = false → decodeIn .strict w = decodeIn .loose w) ∧
  (∀ x y n : Nibble, n ≠ 0#4 →
    decodeIn .strict (0x5#4 ++ x ++ y ++ n) = .error (.unrecognized (0x5#4 ++ x ++ y ++ n)) ∧
    decodeIn .loose (0x5#4 ++ x ++ y ++ n) = .ok (.seReg x y) ∧
    decodeIn .strict (0x9#4 ++ x ++ y ++ n) = .error (.unrecognized (0x9#4 ++ x ++ y ++ n)) ∧
    decodeIn .loose (0x9#4 ++ x ++ y ++ n) = .ok (.sneReg x y)) ∧
  ∀ x : Nibble, x ≠ 0#4 →
    decodeIn .strict (0x0#4 ++ x ++ 0xE0#8) = .ok (.sys (x ++ 0xE0#8)) ∧
    decodeIn .loose (0x0#4 ++ x ++ 0xE0#8) = .ok .cls ∧
    decodeIn .strict (0x0#4 ++ x ++ 0xEE#8) = .ok (.sys (x ++ 0xEE#8)) ∧
    decodeIn .loose (0x0#4 ++ x ++ 0xEE#8) = .ok .ret

/-- Decode is total (R85), the unrecognized words under strict decoding are exactly those R86 lists, the other 0NNN
words are SYS, and a step on either kind only advances PC and ends Ok (R86). Two readings are the model's (DEDUCED): 0xE0
and 0xEE with x not 0 are SYS where R87 calls them Unrecognized under Strict (log 7), and 8XY0 and FX0A are never in the
list, where R88 calls them Unrecognized under NoOp (log 6). -/
def Obligations.UnrecognizedWordsAreNoOps : Prop :=
  (∀ (mode : DecodeMode) (w : Word),
    (∃ i, decodeIn mode w = .ok i) ∨ decodeIn mode w = .error (.unrecognized w)) ∧
  (∀ w : Word, decodeIn .strict w = .error (.unrecognized w) ↔
    ((fieldP w = 0x5#4 ∨ fieldP w = 0x9#4) ∧ fieldN w ≠ 0#4) ∨
    (fieldP w = 0x8#4 ∧ fieldN w ∈ [0x8#4, 0x9#4, 0xA#4, 0xB#4, 0xC#4, 0xD#4, 0xF#4]) ∨
    (fieldP w = 0xE#4 ∧ fieldNN w ∉ [0x9E#8, 0xA1#8]) ∨
    (fieldP w = 0xF#4 ∧
      fieldNN w ∉ [0x07#8, 0x0A#8, 0x15#8, 0x18#8, 0x1E#8, 0x29#8, 0x33#8, 0x55#8, 0x65#8])) ∧
  (∀ w : Word, fieldP w = 0#4 → w ≠ 0x00E0#16 → w ≠ 0x00EE#16 →
    decodeIn .strict w = .ok (.sys (fieldNNN w))) ∧
  ∀ (s : State) (w : Word), s.faulted = false → s.fetch = some w →
    (decodeWord w = .error (.unrecognized w) ∨ ∃ nnn, decodeWord w = .ok (.sys nnn)) →
    step s = .next { s with pc := s.pc + 2#16, status := .ok }

/-- The six fields of a word, as numbers (R81; their positions are the spec's own decision D21). -/
def Obligations.FieldsOfEveryWord : Prop :=
  ∀ w : Word,
    (fieldP w).toNat = w.toNat / 4096 ∧ (fieldX w).toNat = w.toNat / 256 % 16 ∧
    (fieldY w).toNat = w.toNat / 16 % 16 ∧ (fieldN w).toNat = w.toNat % 16 ∧
    (fieldNN w).toNat = w.toNat % 256 ∧ (fieldNNN w).toNat = w.toNat % 4096

/-- Some words written out from R84 and R90, each decoding to the instruction it stands for. -/
def Obligations.SampleWordsDecode : Prop :=
  decodeWord 0x8354#16 = .ok (.addReg 3 5) ∧ decodeWord 0x00E0#16 = .ok .cls ∧ decodeWord 0x00EE#16 = .ok .ret ∧
  decodeWord 0x2300#16 = .ok (.call 0x300) ∧ decodeWord 0xD125#16 = .ok (.drw 1 2 5) ∧
  decodeWord 0x632A#16 = .ok (.ldByte 3 0x2A) ∧ decodeWord 0xFA33#16 = .ok (.ldBVx 10) ∧
  decodeWord 0xE5A1#16 = .ok (.sknp 5) ∧ decodeWord 0xA300#16 = .ok (.ldI 0x300)

/-! ## The step -/

/-- When the two bytes at PC decode to i, the step is exec of i with PC moved past them (40_pipeline.md R100-R105; that
the advance comes before execute is the spec's own decision D1). -/
def Obligations.StepRunsDecodedInstruction : Prop :=
  ∀ (s : State) (i : Instr), s.faulted = false → 0x200 ≤ s.pc.toNat → s.pc.toNat ≤ 4094 →
    decode [s.mem.read s.pc.toNat, s.mem.read (s.pc.toNat + 1)] = .ok (i, []) →
    step s = exec i { s with pc := s.pc + 2#16 }

/-- Fetch (20_memory.md R63): at every PC a step may fetch from, the word is `M[PC] * 256 + M[PC + 1]`, and both
addresses are in memory. -/
def Obligations.FetchIsBigEndian : Prop :=
  ∀ s : State, 0x200 ≤ s.pc.toNat → s.pc.toNat ≤ 4094 →
    s.pc.toNat + 1 < memSize ∧
    ∃ w, s.fetch = some w ∧
      w.toNat = (s.mem.read s.pc.toNat).toNat * 256 + (s.mem.read (s.pc.toNat + 1)).toNat

/-- Outside [0x200, 4094] nothing is fetched, and the step reports OutOfBounds, changing nothing but the status and the
mark (20_memory.md R68, 40_pipeline.md R101; the mark is the spec's own decision D3). -/
def Obligations.OutOfBoundsStepChangesNothingElse : Prop :=
  ∀ s : State, s.pc.toNat < 0x200 ∨ 4094 < s.pc.toNat →
    s.fetch = none ∧
    (s.faulted = false → step s = .next { s with status := .outOfBounds, faulted := true })

/-- The sticky mark (10_state.md R36): a step sets it exactly when its status is not Ok; while it is set no step is
taken; only reset clears it. The mark is the spec's own decision D3. -/
def Obligations.ErrorMarkIsStickyAndHalts : Prop :=
  (∀ s t : State, s.faulted = false → step s = .next t → (t.faulted = true ↔ t.status ≠ .ok)) ∧
  (∀ s : State, s.faulted = true → step s = .fault .halted ∧ transact .step s = .fault .halted) ∧
  (∀ (s t : State) (o : HostOp) (r : HostReply), s.faulted = true → transact o s = .next (r, t) →
    (t.faulted = false ↔ ∃ p, o = .reset p))

/-- Every step that is offered returns one status, the one it stores, whatever the status before (40_pipeline.md
R107). -/
def Obligations.EveryStepReturnsAFreshStatus : Prop :=
  ∀ s : State, s.faulted = false →
    ∃ t, step s = .next t ∧ transact .step s = .next (.status t.status, t) ∧
      ∀ e : Status, step { s with status := e } = .next t

/-- Which instruction reports which error, exactly when, and that the state at the error is the one execute was
entered with, the status and the mark apart (40_pipeline.md R106, 60_exceptions.md R240, R242; the state at the error,
the mark, the bound and the codes are the spec's own decisions D2, D3, D12, D24). -/
def Obligations.ErrorCausesAndPrecision : Prop :=
  (∀ (i : Instr) (s t : State), exec i s = .next t →
    (t.status = .stackEmpty ↔ i = .ret ∧ s.sp.val = 0) ∧
    (t.status = .stackOverflow ↔ (∃ nnn, i = .call nnn) ∧ s.sp.val = 16) ∧
    (t.status = .illegalMemoryAccess ↔
      (∃ x, i = .ldBVx x ∧ 4096 < s.i.toNat + 3) ∨
      (∃ x, (i = .ldMemVx x ∨ i = .ldVxMem x) ∧ 4096 < s.i.toNat + (x.toNat + 1)) ∨
      (∃ x y n, i = .drw x y n ∧ 4096 < s.i.toNat + n.toNat)) ∧
    t.status ≠ .outOfBounds ∧
    (t.status ≠ .ok → t = { s with status := t.status, faulted := true })) ∧
  (∀ s t : State, step s = .next t →
    (t.status = .outOfBounds ↔ s.pc.toNat < 0x200 ∨ 4094 < s.pc.toNat) ∧
    (t.status = .outOfBounds → t = { s with status := t.status, faulted := true }) ∧
    (t.status ≠ .ok → t.status ≠ .outOfBounds →
      t = { s with pc := s.pc + 2#16, status := t.status, faulted := true })) ∧
  statusCode .ok = 0 ∧ statusCode .outOfBounds = 1 ∧ statusCode .stackEmpty = 2 ∧
  statusCode .stackOverflow = 3 ∧ statusCode .illegalMemoryAccess = 4

/-- How each instruction leaves PC, measured from the `A + 2` it is entered with (10_state.md R25): skips add 2, jumps
and a successful call or return set it, a waiting FX0A goes back to A, everything else, raising included, keeps it. From A = 4094 a skip leaves 0x1002, not the 0x1000 of R124's
corner case (DEDUCED, unsafe: log 8); FX0A's A is PC - 2, which wraps below 2 only where no step enters exec (log 17). -/
def Obligations.PcAfterEachInstruction : Prop :=
  ∀ (i : Instr) (s t : State), exec i s = .next t →
    match i with
    | .seByte x nn => t.pc = if s.v x = nn then s.pc + 2#16 else s.pc
    | .sneByte x nn => t.pc = if s.v x ≠ nn then s.pc + 2#16 else s.pc
    | .seReg x y => t.pc = if s.v x = s.v y then s.pc + 2#16 else s.pc
    | .sneReg x y => t.pc = if s.v x ≠ s.v y then s.pc + 2#16 else s.pc
    | .skp x => t.pc = if ∃ k : Fin 16, (s.v x).toNat = k.val ∧ s.keys[k.val] = true then s.pc + 2#16 else s.pc
    | .sknp x => t.pc = if ∃ k : Fin 16, (s.v x).toNat = k.val ∧ s.keys[k.val] = false then s.pc + 2#16 else s.pc
    | .jp nnn => t.pc.toNat = nnn.toNat
    | .call nnn => if s.sp.val = 16 then t.pc = s.pc else t.pc.toNat = nnn.toNat
    | .jpV0 nnn => t.pc.toNat = nnn.toNat + (s.v 0#4).toNat
    | .ret => if s.sp.val = 0 then t.pc = s.pc else s.stack[s.sp.val - 1]? = some t.pc
    | .ldVxK _ => if unlisted = .standard ∧ ∀ k : Fin 16, s.keys[k.val] = false then t.pc = s.pc - 2#16 else t.pc = s.pc
    | .cls | .sys _ | .ldByte _ _ | .addByte _ _ | .ldReg _ _ | .orReg _ _ | .andReg _ _ | .xorReg _ _
    | .addReg _ _ | .subReg _ _ | .shr _ _ | .subnReg _ _ | .shl _ _ | .ldI _ | .rnd _ _ | .drw _ _ _
    | .ldVxDt _ | .ldDtVx _ | .ldStVx _ | .addIVx _ | .ldFVx _ | .ldBVx _ | .ldMemVx _ | .ldVxMem _ => t.pc = s.pc

/-! ## Control flow (41_control_flow.md) -/

/-- RET (R120): pops the top entry into PC, the array keeping it; with SP = 0 it reports StackEmpty,
PC and all else unchanged from entry but the mark (the spec's own decisions D2, D3). -/
def Obligations.ReturnPopsOrReportsEmpty : Prop :=
  encode .ret = 0x00EE#16 ∧
  ∀ s : State,
    (0 < s.sp.val → ∃ t, exec .ret s = .next t ∧ t.sp.val + 1 = s.sp.val ∧ s.stack[s.sp.val - 1]? = some t.pc ∧
      t = { s with sp := t.sp, pc := t.pc, status := .ok }) ∧
    (s.sp.val = 0 → exec .ret s = .next { s with status := .stackEmpty, faulted := true })

/-- CALL (R122): pushes the PC it is entered with, then jumps; with SP = 16 it reports StackOverflow, all
else unchanged from entry but the mark (the spec's own decisions D2, D3). -/
def Obligations.CallPushesOrReportsOverflow : Prop :=
  ∀ (nnn : Imm12) (s : State),
    encode (.call nnn) = 0x2000#16 ||| nnn.setWidth 16 ∧
    (s.sp.val < 16 → ∃ t, exec (.call nnn) s = .next t ∧ t.sp.val = s.sp.val + 1 ∧
      t.stack[s.sp.val]? = some s.pc ∧ (∀ k, k ≠ s.sp.val → t.stack[k]? = s.stack[k]?) ∧ t.pc.toNat = nnn.toNat ∧
      t = { s with stack := t.stack, sp := t.sp, pc := t.pc, status := .ok }) ∧
    (s.sp.val = 16 → exec (.call nnn) s = .next { s with status := .stackOverflow, faulted := true })

/-- A call followed, whatever ran in between, by a return in a state with the call stack the call left, restores the PC
and SP from before the call (R122, 10_state.md R28). -/
def Obligations.CallThenReturnRestoresPc : Prop :=
  ∀ (nnn : Imm12) (s : State), s.sp.val < 16 →
    ∃ t, exec (.call nnn) s = .next t ∧
      ∀ u : State, u.stack = t.stack → u.sp = t.sp →
        ∃ r, exec .ret u = .next r ∧ r.pc = s.pc ∧ r.sp = s.sp ∧ r.status = .ok ∧
          ∀ k, k < s.sp.val → r.stack[k]? = s.stack[k]?

/-- Nested calls fit exactly while 16 entries suffice, so from an empty stack the 17th overflows, and as many returns
unwind them: PC, SP and the entries below are those from before the first call (R122, R28; vectors E4, E5). -/
def Obligations.NestedCallsFitSixteenAndUnwind : Prop :=
  ∀ (calls : List Imm12) (s : State),
    ((callChain calls s).isSome = true ↔ calls = [] ∨ s.sp.val + calls.length ≤ 16) ∧
    ∀ t, callChain calls s = some t → ∃ u, returnChain calls.length t = some u ∧ u.pc = s.pc ∧ u.sp = s.sp ∧
      ∀ k, k < s.sp.val → u.stack[k]? = s.stack[k]?

/-- JP and JP V0 (R121, R123): PC is the 12-bit address, or that plus V0 exactly; nothing else changes. -/
def Obligations.JumpsSetPc : Prop :=
  ∀ (nnn : Imm12) (s : State),
    encode (.jp nnn) = 0x1000#16 ||| nnn.setWidth 16 ∧ encode (.jpV0 nnn) = 0xB000#16 ||| nnn.setWidth 16 ∧
    (∃ t, exec (.jp nnn) s = .next t ∧ t.pc.toNat = nnn.toNat ∧ t = { s with pc := t.pc, status := .ok }) ∧
    ∃ t, exec (.jpV0 nnn) s = .next t ∧ t.pc.toNat = nnn.toNat + (s.v 0#4).toNat ∧
      t = { s with pc := t.pc, status := .ok }

/-- The four comparing skips (R124-R127): PC advances by 2 more when the comparison holds; nothing else changes. From
A = 4094 a skip leaves 0x1002, as R25 and the pseudocode have it, not the 0x1000 of R124's corner case (DEDUCED: log 8). -/
def Obligations.ComparingSkips : Prop :=
  ∀ (x y : RegIdx) (nn : Byte) (s : State),
    exec (.seByte x nn) s = .next { s with pc := if s.v x = nn then s.pc + 2#16 else s.pc, status := .ok } ∧
    exec (.sneByte x nn) s = .next { s with pc := if s.v x = nn then s.pc else s.pc + 2#16, status := .ok } ∧
    exec (.seReg x y) s = .next { s with pc := if s.v x = s.v y then s.pc + 2#16 else s.pc, status := .ok } ∧
    exec (.sneReg x y) s = .next { s with pc := if s.v x = s.v y then s.pc else s.pc + 2#16, status := .ok }

/-- The key skips (R128, R129): they look at the key Vx names; a value above 15 never skips, in either. -/
def Obligations.KeySkips : Prop :=
  ∀ (x : RegIdx) (s : State),
    encode (.skp x) = 0xE09E#16 ||| x.setWidth 16 <<< 8 ∧ encode (.sknp x) = 0xE0A1#16 ||| x.setWidth 16 <<< 8 ∧
    (∀ k : Fin 16, (s.v x).toNat = k.val →
      exec (.skp x) s = .next { s with pc := if s.keys[k.val] then s.pc + 2#16 else s.pc, status := .ok } ∧
      exec (.sknp x) s = .next { s with pc := if s.keys[k.val] then s.pc else s.pc + 2#16, status := .ok }) ∧
    (16 ≤ (s.v x).toNat →
      exec (.skp x) s = .next { s with status := .ok } ∧ exec (.sknp x) s = .next { s with status := .ok })

/-- SYS (R130): every 0-prefix word but CLS, RET and, under loose decoding, the band words; nothing but the fetch
advance, whatever its operand. That 0xE0 and 0xEE with x not 0 are SYS under Strict, where R87 calls them Unrecognized,
is the model's reading (DEDUCED: log 7). -/
def Obligations.SysIsNoOp : Prop :=
  (∀ w : Word, fieldP w = 0#4 → w ≠ 0x00E0#16 → w ≠ 0x00EE#16 → ¬(decodeMode = .loose ∧ inBand w = true) →
    decodeWord w = .ok (.sys (fieldNNN w))) ∧
  ∀ (nnn : Imm12) (s : State),
    encode (.sys nnn) = 0x0000#16 ||| nnn.setWidth 16 ∧ exec (.sys nnn) s = .next { s with status := .ok }

/-! ## ALU (42_alu.md) -/

/-- LD Vx, byte and ADD Vx, byte (R152, R153): the sum wraps modulo 256 and sets no flag; no register but Vx changes,
VF being an ordinary destination. -/
def Obligations.ImmediateLoadAndAdd : Prop :=
  ∀ (x : RegIdx) (nn : Byte) (s : State),
    encode (.ldByte x nn) = 0x6000#16 ||| x.setWidth 16 <<< 8 ||| nn.setWidth 16 ∧
    encode (.addByte x nn) = 0x7000#16 ||| x.setWidth 16 <<< 8 ||| nn.setWidth 16 ∧
    (∃ t, exec (.ldByte x nn) s = .next t ∧ t.v x = nn ∧ SameRegsBut [x] s t ∧
      t = { s with regs := t.regs, status := .ok }) ∧
    ∃ t, exec (.addByte x nn) s = .next t ∧ (t.v x).toNat = ((s.v x).toNat + nn.toNat) % 256 ∧
      SameRegsBut [x] s t ∧ t = { s with regs := t.regs, status := .ok }

/-- LD Vx, Vy (R154, R88; D8): the move where `P_UNLISTED` is Standard, a no-op where it is NoOp. That the
parameter is looked at here, not in decode, is the model's reading (DEDUCED: log 6). -/
def Obligations.RegisterMoveByParameter : Prop :=
  ∀ (x y : RegIdx) (s : State),
    encode (.ldReg x y) = 0x8000#16 ||| x.setWidth 16 <<< 8 ||| y.setWidth 16 <<< 4 ∧
    ∃ t, exec (.ldReg x y) s = .next t ∧ t.v x = (if unlisted = .standard then s.v y else s.v x) ∧
      SameRegsBut [x] s t ∧ t = { s with regs := t.regs, status := .ok }

/-- OR, AND, XOR (R155-R157), bit by bit; VF is not written unless it is Vx (the spec's own decision D10). -/
def Obligations.LogicOperations : Prop :=
  ∀ (x y : RegIdx) (s : State),
    encode (.orReg x y) = 0x8001#16 ||| x.setWidth 16 <<< 8 ||| y.setWidth 16 <<< 4 ∧
    encode (.andReg x y) = 0x8002#16 ||| x.setWidth 16 <<< 8 ||| y.setWidth 16 <<< 4 ∧
    encode (.xorReg x y) = 0x8003#16 ||| x.setWidth 16 <<< 8 ||| y.setWidth 16 <<< 4 ∧
    (∃ t, exec (.orReg x y) s = .next t ∧
      (∀ b, (t.v x).getLsbD b = ((s.v x).getLsbD b || (s.v y).getLsbD b)) ∧
      SameRegsBut [x] s t ∧ t = { s with regs := t.regs, status := .ok }) ∧
    (∃ t, exec (.andReg x y) s = .next t ∧
      (∀ b, (t.v x).getLsbD b = ((s.v x).getLsbD b && (s.v y).getLsbD b)) ∧
      SameRegsBut [x] s t ∧ t = { s with regs := t.regs, status := .ok }) ∧
    ∃ t, exec (.xorReg x y) s = .next t ∧
      (∀ b, (t.v x).getLsbD b = ((s.v x).getLsbD b ^^ (s.v y).getLsbD b)) ∧
      SameRegsBut [x] s t ∧ t = { s with regs := t.regs, status := .ok }

/-- ADD Vx, Vy (R158, R151): the wrapped sum and the carry, both from the operands as they stood; where x is F the
parameter `P_VF_LAST` says which of the two VF ends with. -/
def Obligations.AddWithCarry : Prop :=
  ∀ (x y : RegIdx) (s : State),
    encode (.addReg x y) = 0x8004#16 ||| x.setWidth 16 <<< 8 ||| y.setWidth 16 <<< 4 ∧
    ∃ t, exec (.addReg x y) s = .next t ∧
      (x ≠ vF → (t.v x).toNat = ((s.v x).toNat + (s.v y).toNat) % 256 ∧
        (t.v vF).toNat = if 255 < (s.v x).toNat + (s.v y).toNat then 1 else 0) ∧
      (x = vF → (t.v vF).toNat =
        if vfLast then (if 255 < (s.v x).toNat + (s.v y).toNat then 1 else 0)
        else ((s.v x).toNat + (s.v y).toNat) % 256) ∧
      SameRegsBut [x, vF] s t ∧ t = { s with regs := t.regs, status := .ok }

/-- SUB (R159): the wrapped difference and the STRICT comparison, 0 at equality (C5); where x is F the parameter
`P_VF_LAST` says which of the two VF ends with (R151). -/
def Obligations.SubtractWithNotBorrow : Prop :=
  ∀ (x y : RegIdx) (s : State),
    encode (.subReg x y) = 0x8005#16 ||| x.setWidth 16 <<< 8 ||| y.setWidth 16 <<< 4 ∧
    ∃ t, exec (.subReg x y) s = .next t ∧
      (x ≠ vF → (t.v x).toNat = ((s.v x).toNat + 256 - (s.v y).toNat) % 256 ∧
        (t.v vF).toNat = if (s.v y).toNat < (s.v x).toNat then 1 else 0) ∧
      (x = vF → (t.v vF).toNat =
        if vfLast then (if (s.v y).toNat < (s.v x).toNat then 1 else 0)
        else ((s.v x).toNat + 256 - (s.v y).toNat) % 256) ∧
      SameRegsBut [x, vF] s t ∧ t = { s with regs := t.regs, status := .ok }

/-- SUBN (R161, R151): as SUB with the operands exchanged, the comparison strict here too (the spec's own decision
D9). -/
def Obligations.ReverseSubtractWithNotBorrow : Prop :=
  ∀ (x y : RegIdx) (s : State),
    encode (.subnReg x y) = 0x8007#16 ||| x.setWidth 16 <<< 8 ||| y.setWidth 16 <<< 4 ∧
    ∃ t, exec (.subnReg x y) s = .next t ∧
      (x ≠ vF → (t.v x).toNat = ((s.v y).toNat + 256 - (s.v x).toNat) % 256 ∧
        (t.v vF).toNat = if (s.v x).toNat < (s.v y).toNat then 1 else 0) ∧
      (x = vF → (t.v vF).toNat =
        if vfLast then (if (s.v x).toNat < (s.v y).toNat then 1 else 0)
        else ((s.v y).toNat + 256 - (s.v x).toNat) % 256) ∧
      SameRegsBut [x, vF] s t ∧ t = { s with regs := t.regs, status := .ok }

/-- SHR (R160, R151): the source register is Vy under Legacy, Vx under Modern; the result is half of it, the flag its
bit 0; Vy gets the result too under Legacy where `P_LEGACY_SHIFT_VY` says so, before result and flag are written (the
spec's own decisions D6, D14). -/
def Obligations.ShiftRightByDialect : Prop :=
  ∀ (x y : RegIdx) (s : State),
    encode (.shr x y) = 0x8006#16 ||| x.setWidth 16 <<< 8 ||| y.setWidth 16 <<< 4 ∧
    ∃ (t : State) (src : Nat), src = (if dialect = .legacy then (s.v y).toNat else (s.v x).toNat) ∧
      exec (.shr x y) s = .next t ∧
      (x ≠ vF → (t.v x).toNat = src / 2 ∧ (t.v vF).toNat = src % 2) ∧
      (x = vF → (t.v vF).toNat = if vfLast then src % 2 else src / 2) ∧
      (y ≠ x → y ≠ vF → (t.v y).toNat = if dialect = .legacy ∧ legacyShiftVy = true then src / 2 else (s.v y).toNat) ∧
      SameRegsBut [x, y, vF] s t ∧ t = { s with regs := t.regs, status := .ok }

/-- SHL (R162, R151; D6, D14): as SHR, the result doubled modulo 256, the flag bit 7 of the source. -/
def Obligations.ShiftLeftByDialect : Prop :=
  ∀ (x y : RegIdx) (s : State),
    encode (.shl x y) = 0x800E#16 ||| x.setWidth 16 <<< 8 ||| y.setWidth 16 <<< 4 ∧
    ∃ (t : State) (src : Nat), src = (if dialect = .legacy then (s.v y).toNat else (s.v x).toNat) ∧
      exec (.shl x y) s = .next t ∧
      (x ≠ vF → (t.v x).toNat = src * 2 % 256 ∧ (t.v vF).toNat = src / 128) ∧
      (x = vF → (t.v vF).toNat = if vfLast then src / 128 else src * 2 % 256) ∧
      (y ≠ x → y ≠ vF →
        (t.v y).toNat = if dialect = .legacy ∧ legacyShiftVy = true then src * 2 % 256 else (s.v y).toNat) ∧
      SameRegsBut [x, y, vF] s t ∧ t = { s with regs := t.regs, status := .ok }

/-- RND (R163): Vx is the drawn byte masked by nn, so its bits outside nn are 0. The drawn byte is the model's free
value `randomByte`, and the count of draws is the model's own (D25; DESIGN CHOICE, log 3). -/
def Obligations.RandomByteIsMasked : Prop :=
  ∀ (x : RegIdx) (nn : Byte) (s : State),
    ∃ t, exec (.rnd x nn) s = .next t ∧
      (∀ b, (t.v x).getLsbD b = ((randomByte s.draws).getLsbD b && nn.getLsbD b)) ∧ t.draws = s.draws + 1 ∧
      SameRegsBut [x] s t ∧ t = { s with regs := t.regs, draws := t.draws, status := .ok }

/-! ## Index register and memory (43_index_memory.md) -/

/-- LD I and LD F (R180, R182): I is the address, or five times Vx, which a draw of any height can follow inside memory;
nothing else changes. -/
def Obligations.IndexFromAddressOrGlyph : Prop :=
  ∀ (x : RegIdx) (nnn : Imm12) (s : State),
    encode (.ldI nnn) = 0xA000#16 ||| nnn.setWidth 16 ∧ encode (.ldFVx x) = 0xF029#16 ||| x.setWidth 16 <<< 8 ∧
    (∃ t, exec (.ldI nnn) s = .next t ∧ t.i.toNat = nnn.toNat ∧ t = { s with i := t.i, status := .ok }) ∧
    ∃ t, exec (.ldFVx x) s = .next t ∧ t.i.toNat = (s.v x).toNat * 5 ∧
      (∀ n : Nibble, t.i.toNat + n.toNat ≤ memSize) ∧ t = { s with i := t.i, status := .ok }

/-- ADD I, Vx (R181): the sum wraps at 16 bits, not at 12, and VF is not written (the spec's own decision D11). -/
def Obligations.IndexAddWrapsAtSixteenBits : Prop :=
  ∀ (x : RegIdx) (s : State),
    encode (.addIVx x) = 0xF01E#16 ||| x.setWidth 16 <<< 8 ∧
    ∃ t, exec (.addIVx x) s = .next t ∧ t.i.toNat = (s.i.toNat + (s.v x).toNat) % 65536 ∧
      t = { s with i := t.i, status := .ok }

/-- LD B, Vx (R183, 20_memory.md R67): hundreds, tens and ones at I, I + 1, I + 2 and no other byte changed; with the
range past memory, IllegalMemoryAccess and no byte written (the bound is the spec's own decision D12, the mark D3). -/
def Obligations.BcdStoresThreeDigits : Prop :=
  ∀ (x : RegIdx) (s : State), Memory.wf s.mem →
    encode (.ldBVx x) = 0xF033#16 ||| x.setWidth 16 <<< 8 ∧
    (s.i.toNat + 3 ≤ memSize → ∃ t, exec (.ldBVx x) s = .next t ∧
      (t.mem.read s.i.toNat).toNat = (s.v x).toNat / 100 ∧
      (t.mem.read (s.i.toNat + 1)).toNat = (s.v x).toNat / 10 % 10 ∧
      (t.mem.read (s.i.toNat + 2)).toNat = (s.v x).toNat % 10 ∧
      SameBytesOutside s.i.toNat 3 s.mem t.mem ∧ t = { s with mem := t.mem, status := .ok }) ∧
    (memSize < s.i.toNat + 3 → exec (.ldBVx x) s = .next { s with status := .illegalMemoryAccess, faulted := true })

/-- LD [I], Vx (R184, R67): V0..VX at I..I+X and no other byte changed; I advances by X + 1 modulo 2^16 under Legacy
and stays under Modern; with the range past memory, IllegalMemoryAccess and nothing written (the spec's own decisions
D3, D11, D12). -/
def Obligations.BlockStore : Prop :=
  ∀ (x : RegIdx) (s : State), Memory.wf s.mem →
    encode (.ldMemVx x) = 0xF055#16 ||| x.setWidth 16 <<< 8 ∧
    (s.i.toNat + (x.toNat + 1) ≤ memSize → ∃ t, exec (.ldMemVx x) s = .next t ∧
      (∀ r : RegIdx, r ≤ x → t.mem.read (s.i.toNat + r.toNat) = s.v r) ∧
      SameBytesOutside s.i.toNat (x.toNat + 1) s.mem t.mem ∧
      t.i.toNat = (if dialect = .legacy then (s.i.toNat + x.toNat + 1) % 65536 else s.i.toNat) ∧
      t = { s with mem := t.mem, i := t.i, status := .ok }) ∧
    (memSize < s.i.toNat + (x.toNat + 1) →
      exec (.ldMemVx x) s = .next { s with status := .illegalMemoryAccess, faulted := true })

/-- LD Vx, [I] (R185, R67): V0..VX from I..I+X, registers above X and memory unchanged; I as in the block store; with
the range past memory, IllegalMemoryAccess and no register written (D3, D11, D12). -/
def Obligations.BlockLoad : Prop :=
  ∀ (x : RegIdx) (s : State),
    encode (.ldVxMem x) = 0xF065#16 ||| x.setWidth 16 <<< 8 ∧
    (s.i.toNat + (x.toNat + 1) ≤ memSize → ∃ t, exec (.ldVxMem x) s = .next t ∧
      (∀ r : RegIdx, t.v r = if r ≤ x then s.mem.read (s.i.toNat + r.toNat) else s.v r) ∧
      t.i.toNat = (if dialect = .legacy then (s.i.toNat + x.toNat + 1) % 65536 else s.i.toNat) ∧
      t = { s with regs := t.regs, i := t.i, status := .ok }) ∧
    (memSize < s.i.toNat + (x.toNat + 1) →
      exec (.ldVxMem x) s = .next { s with status := .illegalMemoryAccess, faulted := true })

/-- What a block store wrote, a block load of the same registers from the same index brings back, whatever happened to
the registers in between (R184, R185). -/
def Obligations.BlockLoadUndoesBlockStore : Prop :=
  ∀ (x : RegIdx) (s t u : State), Memory.wf s.mem → exec (.ldMemVx x) s = .next t → t.status = .ok →
    u.mem = t.mem → u.i = s.i →
    ∃ r, exec (.ldVxMem x) u = .next r ∧ r.status = .ok ∧
      ∀ k : RegIdx, r.v k = if k ≤ x then s.v k else u.v k

/-- A store is seen by the very next fetch of its bytes (20_memory.md R65, R73): with V_k and V_(k+1) stored by a block
store at an address PC then holds, the fetched word is V_k in the high byte and V_(k+1) in the low (coherence: the spec's own
decision D23). -/
def Obligations.StoreIsSeenByNextFetch : Prop :=
  ∀ (x k : RegIdx) (s t : State), Memory.wf s.mem → exec (.ldMemVx x) s = .next t → t.status = .ok → k < x →
    t.pc.toNat = s.i.toNat + k.toNat → 0x200 ≤ t.pc.toNat → t.pc.toNat ≤ 4094 →
    ∃ w, t.fetch = some w ∧ w.toNat = (s.v k).toNat * 256 + (s.v (k + 1#4)).toNat

/-! ## Display (44_display.md) -/

/-- CLS (R200): every pixel off, needs_redraw set, frame_nonblank (the spec's own decision D15) and all else unchanged. -/
def Obligations.ClearScreen : Prop :=
  encode .cls = 0x00E0#16 ∧
  ∀ s : State, ∃ t, exec .cls s = .next t ∧ (∀ r c, t.disp.pixel r c = false) ∧
    t = { s with disp := t.disp, needsRedraw := true, status := .ok }

/-- DRW (R201-R204): a pixel is toggled exactly where the sprite, wrapped or truncated as the configuration says, has a
set bit; VF is the collision flag by the rule `P_COLLISION` names, over the visited cells in source order and the
display before the draw; both display flags are set; memory, the other registers and I are unchanged. With the N rows
past memory, IllegalMemoryAccess and nothing drawn. (The rules of collision, of the bound, of N = 0 and of operands read
first are the spec's own decisions D4, D12, D13, D14, the mark D3.) -/
def Obligations.DrawXorsSpriteAndReportsCollision : Prop :=
  ∀ (x y : RegIdx) (n : Nibble) (s : State),
    encode (.drw x y n) = 0xD000#16 ||| x.setWidth 16 <<< 8 ||| y.setWidth 16 <<< 4 ||| n.setWidth 16 ∧
    (s.i.toNat + n.toNat ≤ memSize → ∃ t, exec (.drw x y n) s = .next t ∧
      (∀ row col, t.disp.pixel row col = (s.disp.pixel row col ^^
        (visitedCells screenWrap (s.v x).toNat (s.v y).toNat n.toNat).any fun (r, c, row', col') =>
          spriteBitAt s.mem s.i.toNat r c && decide (row' = row ∧ col' = col))) ∧
      (t.v vF).toNat = (if collisionByRule collision (spriteBitAt s.mem s.i.toNat) s.disp
        (visitedCells screenWrap (s.v x).toNat (s.v y).toNat n.toNat) then 1 else 0) ∧
      SameRegsBut [vF] s t ∧
      t = { s with regs := t.regs, disp := t.disp, needsRedraw := true, frameNonblank := true, status := .ok }) ∧
    (memSize < s.i.toNat + n.toNat →
      exec (.drw x y n) s = .next { s with status := .illegalMemoryAccess, faulted := true })

/-- Drawing the same sprite twice from the same origin restores the display (R204's exclusive-OR; vector E7). -/
def Obligations.DrawingTwiceRestoresDisplay : Prop :=
  ∀ (x y : RegIdx) (n : Nibble) (s t u v : State), exec (.drw x y n) s = .next t → t.status = .ok →
    u.disp = t.disp → u.mem = s.mem → u.i = s.i → u.v x = s.v x → u.v y = s.v y →
    exec (.drw x y n) u = .next v → v.disp = s.disp

/-! ## Timers and keys (45_timers_keys.md) -/

/-- LD Vx, DT; LD DT, Vx; LD ST, Vx (R220-R222): a copy and nothing else; the sound debounce state is not touched. -/
def Obligations.TimerRegisterCopies : Prop :=
  ∀ (x : RegIdx) (s : State),
    encode (.ldVxDt x) = 0xF007#16 ||| x.setWidth 16 <<< 8 ∧ encode (.ldDtVx x) = 0xF015#16 ||| x.setWidth 16 <<< 8 ∧
    encode (.ldStVx x) = 0xF018#16 ||| x.setWidth 16 <<< 8 ∧
    (∃ t, exec (.ldVxDt x) s = .next t ∧ t.v x = s.dt ∧ SameRegsBut [x] s t ∧
      t = { s with regs := t.regs, status := .ok }) ∧
    exec (.ldDtVx x) s = .next { s with dt := s.v x, status := .ok } ∧
    exec (.ldStVx x) s = .next { s with st := s.v x, status := .ok }

/-- LD Vx, K (R223, R88; D8): where `P_UNLISTED` is Standard, Vx gets the lowest held key, or, with none held, PC goes back
to A, both with status Ok; where it is NoOp, nothing happens. That the parameter is looked at here, not in decode, is the
model's reading (DEDUCED: log 6); A is PC - 2 (log 17). -/
def Obligations.WaitForKey : Prop :=
  ∀ (x : RegIdx) (s : State),
    encode (.ldVxK x) = 0xF00A#16 ||| x.setWidth 16 <<< 8 ∧
    ∃ t, exec (.ldVxK x) s = .next t ∧
      if unlisted = .standard then
        (∀ k : Fin 16, s.keys[k.val] = true → (∀ j : Fin 16, j < k → s.keys[j.val] = false) →
          (t.v x).toNat = k.val ∧ SameRegsBut [x] s t ∧ t = { s with regs := t.regs, status := .ok }) ∧
        ((∀ k : Fin 16, s.keys[k.val] = false) → t = { s with pc := s.pc - 2#16, status := .ok })
      else t = { s with status := .ok }

/-! ## Rules of the whole machine -/

/-- VF is written as a side effect only by the five flag-setting 8-family instructions and DRW; every other instruction
changes it only as its named destination (10_state.md R21). -/
def Obligations.OnlyFlagInstructionsWriteVf : Prop :=
  ∀ (i : Instr) (s t : State), exec i s = .next t → t.v vF ≠ s.v vF →
    match i with
    | .addReg _ _ | .subReg _ _ | .shr _ _ | .subnReg _ _ | .shl _ _ | .drw _ _ _ => True
    | .ldByte x _ | .addByte x _ | .ldReg x _ | .orReg x _ | .andReg x _ | .xorReg x _ | .rnd x _
    | .ldVxDt x | .ldVxK x | .ldVxMem x => x = vF
    | .cls | .ret | .sys _ | .jp _ | .call _ | .seByte _ _ | .sneByte _ _ | .seReg _ _ | .sneReg _ _ | .ldI _
    | .jpV0 _ | .skp _ | .sknp _ | .ldDtVx _ | .ldStVx _ | .addIVx _ | .ldFVx _ | .ldBVx _ | .ldMemVx _ => False

/-- Which instructions write which piece of state, over the whole instruction set: the keys and the debounce state
none (10_state.md R31, R34); the timers FX15 and FX18 (40_pipeline.md R109); the call stack CALL and RET (R26); the
display CLS and DRW (R32, R33); memory FX33 and FX55 (20_memory.md R64); I the five index instructions, the block
transfers under Legacy only (R23). -/
def Obligations.EachPieceOfStateHasItsWriters : Prop :=
  ∀ (i : Instr) (s t : State), exec i s = .next t →
    t.keys = s.keys ∧ t.sndDb = s.sndDb ∧
    (t.dt ≠ s.dt → ∃ x, i = .ldDtVx x) ∧
    (t.st ≠ s.st → ∃ x, i = .ldStVx x) ∧
    (t.stack ≠ s.stack → ∃ nnn, i = .call nnn) ∧
    (t.sp ≠ s.sp → i = .ret ∨ ∃ nnn, i = .call nnn) ∧
    (t.disp ≠ s.disp ∨ t.needsRedraw ≠ s.needsRedraw → i = .cls ∨ ∃ x y n, i = .drw x y n) ∧
    (t.frameNonblank ≠ s.frameNonblank → ∃ x y n, i = .drw x y n) ∧
    (t.mem ≠ s.mem → ∃ x, i = .ldBVx x ∨ i = .ldMemVx x) ∧
    (t.i ≠ s.i → (∃ nnn, i = .ldI nnn) ∨ (∃ x, i = .addIVx x ∨ i = .ldFVx x) ∨
      dialect = .legacy ∧ ∃ x, i = .ldMemVx x ∨ i = .ldVxMem x)

/-- What no instruction reads cannot influence a run: two states that differ only in ST, the debounce state, the display
flags and the status step alike, to states that again differ only there (10_state.md R30, R31, R33, R35;
60_exceptions.md R250). -/
def Obligations.UnreadStateHasNoInfluence : Prop :=
  ∀ s t : State, SameButUnread s t → s.faulted = t.faulted →
    (∀ s', step s = .next s' →
      ∃ t', step t = .next t' ∧ SameButUnread s' t' ∧ s'.status = t'.status ∧ s'.faulted = t'.faulted) ∧
    (∀ f, step s = .fault f → step t = .fault f)

/-- Equal bytes are equal memories: the canonical form leaves one list per content (the model's representation of R60;
log 9). -/
def Obligations.MemoryIsDeterminedByItsBytes : Prop :=
  ∀ m m' : Memory, Memory.wf m → Memory.wf m' → (∀ a, a < memSize → m.read a = m'.read a) → m = m'

/-- The state at construction meets the invariant. -/
def Obligations.ResetMeetsInvariant : Prop := State.reset.Inv

/-- Every step keeps the invariant: canonical memory, mark and status agreeing, PC at most 0x10FE and return addresses
at most 0x1000 (10_state.md R25, R36), the debounce count within the threshold. -/
def Obligations.StepKeepsInvariant : Prop :=
  ∀ s t : State, s.Inv → step s = .next t → t.Inv

/-- Every host operation keeps the invariant, so every state reachable by any interleaving of host operations has it
(60_exceptions.md R251, R253). -/
def Obligations.EveryTransactionKeepsInvariant : Prop :=
  (∀ (o : HostOp) (s t : State) (r : HostReply), s.Inv → transact o s = .next (r, t) → t.Inv) ∧
  ∀ s : State, Reachable s → s.Inv

/-! ## Reset, load and the host (60_exceptions.md, 70_reset_and_hazards.md) -/

/-- The state at construction (R282, 10_state.md R40), bytes of memory included; but for PC and the font its values are
the spec's own decisions D18, D29. -/
def Obligations.ConstructionState : Prop :=
  (∀ x, State.reset.v x = 0) ∧ State.reset.i = 0 ∧ State.reset.pc = 0x200#16 ∧ State.reset.sp.val = 0 ∧
  (∀ k : Fin 16, State.reset.stack[k.val] = 0) ∧ State.reset.dt = 0 ∧ State.reset.st = 0 ∧
  State.reset.sndDb = none ∧ (∀ r c, State.reset.disp.pixel r c = false) ∧ State.reset.needsRedraw = false ∧
  State.reset.frameNonblank = false ∧ (∀ k : Fin 16, State.reset.keys[k.val] = false) ∧
  State.reset.status = .ok ∧ State.reset.faulted = false ∧
  (∀ a : Fin 80, State.reset.mem.read a.val = font[a.val]) ∧ ∀ a, 80 ≤ a → State.reset.mem.read a = 0

/-- `reset(preserve)` (R280, R281): every piece of state to its reset value but the keys; the font always reloaded;
memory above it zero, or as it was when preserving. The zero values are the spec's own decision D18; that the draw
counter is left alone is the model's DESIGN CHOICE (log 3). -/
def Obligations.HostResetReinitializes : Prop :=
  ∀ (s : State) (preserve : Bool), Memory.wf s.mem →
    ∃ t, transact (.reset preserve) s = .next (.nothing, t) ∧
      (∀ a : Fin 80, t.mem.read a.val = font[a.val]) ∧
      (∀ a, 80 ≤ a → a < memSize → t.mem.read a = if preserve then s.mem.read a else 0) ∧
      t = { State.reset with mem := t.mem, keys := s.keys, draws := s.draws }

/-- `load_program` (R283): more than 3584 bytes are refused and nothing changes; else the bytes stand from 0x200 on and
no other byte and nothing else changes (D19). -/
def Obligations.LoadProgramCopiesOrRefuses : Prop :=
  ∀ (s : State) (bytes : List Byte), Memory.wf s.mem →
    (3584 < bytes.length → transact (.loadProgram bytes) s = .next (.tooLarge, s)) ∧
    (bytes.length ≤ 3584 → ∃ t, transact (.loadProgram bytes) s = .next (.loaded, t) ∧
      (∀ k b, bytes[k]? = some b → t.mem.read (0x200 + k) = b) ∧
      SameBytesOutside 0x200 bytes.length s.mem t.mem ∧ t = { s with mem := t.mem })

/-- `tick_timers` (R247-R250): DT counts down and stops at 0; so does ST; a tick that sees ST > 0 signals, if sound is
enabled, when no signal was given since ST was last 0 or K ticks have passed; the debounce state resets when ST reaches
0; nothing else changes. The debounce mechanism is the spec's own decision D16, the suppression D17. -/
def Obligations.TimersCountDownAndSignal : Prop :=
  ∀ s : State, ∃ (sig : Option Signal) (t : State), transact .tickTimers s = .next (.signal sig, t) ∧
    t.dt.toNat = s.dt.toNat - 1 ∧ t.st.toNat = s.st.toNat - 1 ∧
    (sig = some .play ↔ soundEnabled = true ∧ 0 < s.st.toNat ∧ ∀ k, s.sndDb = some k → soundDebounce ≤ k) ∧
    t.sndDb =
      (if s.st.toNat ≤ 1 then none
      else match s.sndDb with
        | none => some 1
        | some k => if soundDebounce ≤ k then some 1 else some (k + 1)) ∧
    t = { s with dt := t.dt, st := t.st, sndDb := t.sndDb }

/-- While no tick leaves ST at 0 and nothing resets the machine, two ticks that signal are at least K ticks apart,
whatever else the host runs between them, an FX18 that rewrites ST among it; and the first tick after a silence signals
if sound is enabled (R248, R251, D28; the mechanism is the spec's own decision D16). -/
def Obligations.AtMostOneSignalPerWindow : Prop :=
  (∀ (n : Nat) (s t : State), s.tickSignals → s.tickTimers.2.st ≠ 0 → TicksApart n s.tickTimers.2 t → t.tickSignals →
    soundDebounce ≤ n + 1) ∧
  ∀ s : State, 0 < s.st.toNat → s.sndDb = none → (s.tickSignals ↔ soundEnabled = true)

/-- `display`, `consume_dirty_flags` and `set_key` (R253): the grid and the flags as they were, the flags cleared, one
key set; nothing else changes. -/
def Obligations.DisplayFlagsAndKeysForTheHost : Prop :=
  ∀ s : State,
    transact .display s = .next (.grid s.disp, s) ∧
    transact .consumeDirtyFlags s =
      .next (.dirtyFlags s.needsRedraw s.frameNonblank, { s with needsRedraw := false, frameNonblank := false }) ∧
    ∀ (k : Fin 16) (held : Bool), ∃ t, transact (.setKey k held) s = .next (.nothing, t) ∧
      (∀ j : Fin 16, t.keys[j.val] = if j = k then held else s.keys[j.val]) ∧ t = { s with keys := t.keys }

/-- A self-jump is an end: the step from it changes nothing but the status, which is Ok, so the machine stays there
(60_exceptions.md R257, 41_control_flow.md R121; the definition of this end is the spec's own decision D30). -/
def Obligations.SelfJumpIsAnEnd : Prop :=
  ∀ s : State, s.atSelfJump → step s = .next { s with status := .ok } ∧ State.atSelfJump { s with status := .ok }
end

