-- ==== Sys2Proof/Laws/State.lean ====
section
/-! SUPPORT. What each named update of the state does to each field, one lemma per field per update, all by
definition, so that no later proof unfolds a record update. -/

namespace Sys2Proof.Machine

variable (s : State)

@[simp] theorem State.setV_regs (x : RegIdx) (b : Byte) : (s.setV x b).regs = s.regs.set x.toNat b x.isLt := rfl
@[simp] theorem State.setV_i (x : RegIdx) (b : Byte) : (s.setV x b).i = s.i := rfl
@[simp] theorem State.setV_pc (x : RegIdx) (b : Byte) : (s.setV x b).pc = s.pc := rfl
@[simp] theorem State.setV_sp (x : RegIdx) (b : Byte) : (s.setV x b).sp = s.sp := rfl
@[simp] theorem State.setV_stack (x : RegIdx) (b : Byte) : (s.setV x b).stack = s.stack := rfl
@[simp] theorem State.setV_dt (x : RegIdx) (b : Byte) : (s.setV x b).dt = s.dt := rfl
@[simp] theorem State.setV_st (x : RegIdx) (b : Byte) : (s.setV x b).st = s.st := rfl
@[simp] theorem State.setV_sndDb (x : RegIdx) (b : Byte) : (s.setV x b).sndDb = s.sndDb := rfl
@[simp] theorem State.setV_mem (x : RegIdx) (b : Byte) : (s.setV x b).mem = s.mem := rfl
@[simp] theorem State.setV_disp (x : RegIdx) (b : Byte) : (s.setV x b).disp = s.disp := rfl
@[simp] theorem State.setV_needsRedraw (x : RegIdx) (b : Byte) : (s.setV x b).needsRedraw = s.needsRedraw := rfl
@[simp] theorem State.setV_frameNonblank (x : RegIdx) (b : Byte) : (s.setV x b).frameNonblank = s.frameNonblank := rfl
@[simp] theorem State.setV_keys (x : RegIdx) (b : Byte) : (s.setV x b).keys = s.keys := rfl
@[simp] theorem State.setV_status (x : RegIdx) (b : Byte) : (s.setV x b).status = s.status := rfl
@[simp] theorem State.setV_faulted (x : RegIdx) (b : Byte) : (s.setV x b).faulted = s.faulted := rfl
@[simp] theorem State.setV_draws (x : RegIdx) (b : Byte) : (s.setV x b).draws = s.draws := rfl

@[simp] theorem State.setI_regs (w : Word) : (s.setI w).regs = s.regs := rfl
@[simp] theorem State.setI_i (w : Word) : (s.setI w).i = w := rfl
@[simp] theorem State.setI_pc (w : Word) : (s.setI w).pc = s.pc := rfl
@[simp] theorem State.setI_sp (w : Word) : (s.setI w).sp = s.sp := rfl
@[simp] theorem State.setI_stack (w : Word) : (s.setI w).stack = s.stack := rfl
@[simp] theorem State.setI_dt (w : Word) : (s.setI w).dt = s.dt := rfl
@[simp] theorem State.setI_st (w : Word) : (s.setI w).st = s.st := rfl
@[simp] theorem State.setI_sndDb (w : Word) : (s.setI w).sndDb = s.sndDb := rfl
@[simp] theorem State.setI_mem (w : Word) : (s.setI w).mem = s.mem := rfl
@[simp] theorem State.setI_disp (w : Word) : (s.setI w).disp = s.disp := rfl
@[simp] theorem State.setI_needsRedraw (w : Word) : (s.setI w).needsRedraw = s.needsRedraw := rfl
@[simp] theorem State.setI_frameNonblank (w : Word) : (s.setI w).frameNonblank = s.frameNonblank := rfl
@[simp] theorem State.setI_keys (w : Word) : (s.setI w).keys = s.keys := rfl
@[simp] theorem State.setI_status (w : Word) : (s.setI w).status = s.status := rfl
@[simp] theorem State.setI_faulted (w : Word) : (s.setI w).faulted = s.faulted := rfl
@[simp] theorem State.setI_draws (w : Word) : (s.setI w).draws = s.draws := rfl
@[simp] theorem State.setI_v (w : Word) (r : RegIdx) : (s.setI w).v r = s.v r := rfl

@[simp] theorem State.setPc_regs (w : Word) : (s.setPc w).regs = s.regs := rfl
@[simp] theorem State.setPc_i (w : Word) : (s.setPc w).i = s.i := rfl
@[simp] theorem State.setPc_pc (w : Word) : (s.setPc w).pc = w := rfl
@[simp] theorem State.setPc_sp (w : Word) : (s.setPc w).sp = s.sp := rfl
@[simp] theorem State.setPc_stack (w : Word) : (s.setPc w).stack = s.stack := rfl
@[simp] theorem State.setPc_dt (w : Word) : (s.setPc w).dt = s.dt := rfl
@[simp] theorem State.setPc_st (w : Word) : (s.setPc w).st = s.st := rfl
@[simp] theorem State.setPc_sndDb (w : Word) : (s.setPc w).sndDb = s.sndDb := rfl
@[simp] theorem State.setPc_mem (w : Word) : (s.setPc w).mem = s.mem := rfl
@[simp] theorem State.setPc_disp (w : Word) : (s.setPc w).disp = s.disp := rfl
@[simp] theorem State.setPc_needsRedraw (w : Word) : (s.setPc w).needsRedraw = s.needsRedraw := rfl
@[simp] theorem State.setPc_frameNonblank (w : Word) : (s.setPc w).frameNonblank = s.frameNonblank := rfl
@[simp] theorem State.setPc_keys (w : Word) : (s.setPc w).keys = s.keys := rfl
@[simp] theorem State.setPc_status (w : Word) : (s.setPc w).status = s.status := rfl
@[simp] theorem State.setPc_faulted (w : Word) : (s.setPc w).faulted = s.faulted := rfl
@[simp] theorem State.setPc_draws (w : Word) : (s.setPc w).draws = s.draws := rfl
@[simp] theorem State.setPc_v (w : Word) (r : RegIdx) : (s.setPc w).v r = s.v r := rfl

@[simp] theorem State.setDt_regs (b : Byte) : (s.setDt b).regs = s.regs := rfl
@[simp] theorem State.setDt_i (b : Byte) : (s.setDt b).i = s.i := rfl
@[simp] theorem State.setDt_pc (b : Byte) : (s.setDt b).pc = s.pc := rfl
@[simp] theorem State.setDt_sp (b : Byte) : (s.setDt b).sp = s.sp := rfl
@[simp] theorem State.setDt_stack (b : Byte) : (s.setDt b).stack = s.stack := rfl
@[simp] theorem State.setDt_dt (b : Byte) : (s.setDt b).dt = b := rfl
@[simp] theorem State.setDt_st (b : Byte) : (s.setDt b).st = s.st := rfl
@[simp] theorem State.setDt_sndDb (b : Byte) : (s.setDt b).sndDb = s.sndDb := rfl
@[simp] theorem State.setDt_mem (b : Byte) : (s.setDt b).mem = s.mem := rfl
@[simp] theorem State.setDt_disp (b : Byte) : (s.setDt b).disp = s.disp := rfl
@[simp] theorem State.setDt_needsRedraw (b : Byte) : (s.setDt b).needsRedraw = s.needsRedraw := rfl
@[simp] theorem State.setDt_frameNonblank (b : Byte) : (s.setDt b).frameNonblank = s.frameNonblank := rfl
@[simp] theorem State.setDt_keys (b : Byte) : (s.setDt b).keys = s.keys := rfl
@[simp] theorem State.setDt_status (b : Byte) : (s.setDt b).status = s.status := rfl
@[simp] theorem State.setDt_faulted (b : Byte) : (s.setDt b).faulted = s.faulted := rfl
@[simp] theorem State.setDt_draws (b : Byte) : (s.setDt b).draws = s.draws := rfl
@[simp] theorem State.setDt_v (b : Byte) (r : RegIdx) : (s.setDt b).v r = s.v r := rfl

@[simp] theorem State.setSt_regs (b : Byte) : (s.setSt b).regs = s.regs := rfl
@[simp] theorem State.setSt_i (b : Byte) : (s.setSt b).i = s.i := rfl
@[simp] theorem State.setSt_pc (b : Byte) : (s.setSt b).pc = s.pc := rfl
@[simp] theorem State.setSt_sp (b : Byte) : (s.setSt b).sp = s.sp := rfl
@[simp] theorem State.setSt_stack (b : Byte) : (s.setSt b).stack = s.stack := rfl
@[simp] theorem State.setSt_dt (b : Byte) : (s.setSt b).dt = s.dt := rfl
@[simp] theorem State.setSt_st (b : Byte) : (s.setSt b).st = b := rfl
@[simp] theorem State.setSt_sndDb (b : Byte) : (s.setSt b).sndDb = s.sndDb := rfl
@[simp] theorem State.setSt_mem (b : Byte) : (s.setSt b).mem = s.mem := rfl
@[simp] theorem State.setSt_disp (b : Byte) : (s.setSt b).disp = s.disp := rfl
@[simp] theorem State.setSt_needsRedraw (b : Byte) : (s.setSt b).needsRedraw = s.needsRedraw := rfl
@[simp] theorem State.setSt_frameNonblank (b : Byte) : (s.setSt b).frameNonblank = s.frameNonblank := rfl
@[simp] theorem State.setSt_keys (b : Byte) : (s.setSt b).keys = s.keys := rfl
@[simp] theorem State.setSt_status (b : Byte) : (s.setSt b).status = s.status := rfl
@[simp] theorem State.setSt_faulted (b : Byte) : (s.setSt b).faulted = s.faulted := rfl
@[simp] theorem State.setSt_draws (b : Byte) : (s.setSt b).draws = s.draws := rfl
@[simp] theorem State.setSt_v (b : Byte) (r : RegIdx) : (s.setSt b).v r = s.v r := rfl

@[simp] theorem State.setSndDb_regs (d : Option Nat) : (s.setSndDb d).regs = s.regs := rfl
@[simp] theorem State.setSndDb_i (d : Option Nat) : (s.setSndDb d).i = s.i := rfl
@[simp] theorem State.setSndDb_pc (d : Option Nat) : (s.setSndDb d).pc = s.pc := rfl
@[simp] theorem State.setSndDb_sp (d : Option Nat) : (s.setSndDb d).sp = s.sp := rfl
@[simp] theorem State.setSndDb_stack (d : Option Nat) : (s.setSndDb d).stack = s.stack := rfl
@[simp] theorem State.setSndDb_dt (d : Option Nat) : (s.setSndDb d).dt = s.dt := rfl
@[simp] theorem State.setSndDb_st (d : Option Nat) : (s.setSndDb d).st = s.st := rfl
@[simp] theorem State.setSndDb_sndDb (d : Option Nat) : (s.setSndDb d).sndDb = d := rfl
@[simp] theorem State.setSndDb_mem (d : Option Nat) : (s.setSndDb d).mem = s.mem := rfl
@[simp] theorem State.setSndDb_disp (d : Option Nat) : (s.setSndDb d).disp = s.disp := rfl
@[simp] theorem State.setSndDb_needsRedraw (d : Option Nat) : (s.setSndDb d).needsRedraw = s.needsRedraw := rfl
@[simp] theorem State.setSndDb_frameNonblank (d : Option Nat) : (s.setSndDb d).frameNonblank = s.frameNonblank := rfl
@[simp] theorem State.setSndDb_keys (d : Option Nat) : (s.setSndDb d).keys = s.keys := rfl
@[simp] theorem State.setSndDb_status (d : Option Nat) : (s.setSndDb d).status = s.status := rfl
@[simp] theorem State.setSndDb_faulted (d : Option Nat) : (s.setSndDb d).faulted = s.faulted := rfl
@[simp] theorem State.setSndDb_draws (d : Option Nat) : (s.setSndDb d).draws = s.draws := rfl
@[simp] theorem State.setSndDb_v (d : Option Nat) (r : RegIdx) : (s.setSndDb d).v r = s.v r := rfl

@[simp] theorem State.setMem_regs (m : Memory) : (s.setMem m).regs = s.regs := rfl
@[simp] theorem State.setMem_i (m : Memory) : (s.setMem m).i = s.i := rfl
@[simp] theorem State.setMem_pc (m : Memory) : (s.setMem m).pc = s.pc := rfl
@[simp] theorem State.setMem_sp (m : Memory) : (s.setMem m).sp = s.sp := rfl
@[simp] theorem State.setMem_stack (m : Memory) : (s.setMem m).stack = s.stack := rfl
@[simp] theorem State.setMem_dt (m : Memory) : (s.setMem m).dt = s.dt := rfl
@[simp] theorem State.setMem_st (m : Memory) : (s.setMem m).st = s.st := rfl
@[simp] theorem State.setMem_sndDb (m : Memory) : (s.setMem m).sndDb = s.sndDb := rfl
@[simp] theorem State.setMem_mem (m : Memory) : (s.setMem m).mem = m := rfl
@[simp] theorem State.setMem_disp (m : Memory) : (s.setMem m).disp = s.disp := rfl
@[simp] theorem State.setMem_needsRedraw (m : Memory) : (s.setMem m).needsRedraw = s.needsRedraw := rfl
@[simp] theorem State.setMem_frameNonblank (m : Memory) : (s.setMem m).frameNonblank = s.frameNonblank := rfl
@[simp] theorem State.setMem_keys (m : Memory) : (s.setMem m).keys = s.keys := rfl
@[simp] theorem State.setMem_status (m : Memory) : (s.setMem m).status = s.status := rfl
@[simp] theorem State.setMem_faulted (m : Memory) : (s.setMem m).faulted = s.faulted := rfl
@[simp] theorem State.setMem_draws (m : Memory) : (s.setMem m).draws = s.draws := rfl
@[simp] theorem State.setMem_v (m : Memory) (r : RegIdx) : (s.setMem m).v r = s.v r := rfl

@[simp] theorem State.setStack_regs (k : Vector Word 16) (n : Fin 17) : (s.setStack k n).regs = s.regs := rfl
@[simp] theorem State.setStack_i (k : Vector Word 16) (n : Fin 17) : (s.setStack k n).i = s.i := rfl
@[simp] theorem State.setStack_pc (k : Vector Word 16) (n : Fin 17) : (s.setStack k n).pc = s.pc := rfl
@[simp] theorem State.setStack_sp (k : Vector Word 16) (n : Fin 17) : (s.setStack k n).sp = n := rfl
@[simp] theorem State.setStack_stack (k : Vector Word 16) (n : Fin 17) : (s.setStack k n).stack = k := rfl
@[simp] theorem State.setStack_dt (k : Vector Word 16) (n : Fin 17) : (s.setStack k n).dt = s.dt := rfl
@[simp] theorem State.setStack_st (k : Vector Word 16) (n : Fin 17) : (s.setStack k n).st = s.st := rfl
@[simp] theorem State.setStack_sndDb (k : Vector Word 16) (n : Fin 17) : (s.setStack k n).sndDb = s.sndDb := rfl
@[simp] theorem State.setStack_mem (k : Vector Word 16) (n : Fin 17) : (s.setStack k n).mem = s.mem := rfl
@[simp] theorem State.setStack_disp (k : Vector Word 16) (n : Fin 17) : (s.setStack k n).disp = s.disp := rfl
@[simp] theorem State.setStack_needsRedraw (k : Vector Word 16) (n : Fin 17) : (s.setStack k n).needsRedraw = s.needsRedraw := rfl
@[simp] theorem State.setStack_frameNonblank (k : Vector Word 16) (n : Fin 17) : (s.setStack k n).frameNonblank = s.frameNonblank := rfl
@[simp] theorem State.setStack_keys (k : Vector Word 16) (n : Fin 17) : (s.setStack k n).keys = s.keys := rfl
@[simp] theorem State.setStack_status (k : Vector Word 16) (n : Fin 17) : (s.setStack k n).status = s.status := rfl
@[simp] theorem State.setStack_faulted (k : Vector Word 16) (n : Fin 17) : (s.setStack k n).faulted = s.faulted := rfl
@[simp] theorem State.setStack_draws (k : Vector Word 16) (n : Fin 17) : (s.setStack k n).draws = s.draws := rfl
@[simp] theorem State.setStack_v (k : Vector Word 16) (n : Fin 17) (r : RegIdx) : (s.setStack k n).v r = s.v r := rfl

@[simp] theorem State.setDisp_regs (d : Display) : (s.setDisp d).regs = s.regs := rfl
@[simp] theorem State.setDisp_i (d : Display) : (s.setDisp d).i = s.i := rfl
@[simp] theorem State.setDisp_pc (d : Display) : (s.setDisp d).pc = s.pc := rfl
@[simp] theorem State.setDisp_sp (d : Display) : (s.setDisp d).sp = s.sp := rfl
@[simp] theorem State.setDisp_stack (d : Display) : (s.setDisp d).stack = s.stack := rfl
@[simp] theorem State.setDisp_dt (d : Display) : (s.setDisp d).dt = s.dt := rfl
@[simp] theorem State.setDisp_st (d : Display) : (s.setDisp d).st = s.st := rfl
@[simp] theorem State.setDisp_sndDb (d : Display) : (s.setDisp d).sndDb = s.sndDb := rfl
@[simp] theorem State.setDisp_mem (d : Display) : (s.setDisp d).mem = s.mem := rfl
@[simp] theorem State.setDisp_disp (d : Display) : (s.setDisp d).disp = d := rfl
@[simp] theorem State.setDisp_needsRedraw (d : Display) : (s.setDisp d).needsRedraw = s.needsRedraw := rfl
@[simp] theorem State.setDisp_frameNonblank (d : Display) : (s.setDisp d).frameNonblank = s.frameNonblank := rfl
@[simp] theorem State.setDisp_keys (d : Display) : (s.setDisp d).keys = s.keys := rfl
@[simp] theorem State.setDisp_status (d : Display) : (s.setDisp d).status = s.status := rfl
@[simp] theorem State.setDisp_faulted (d : Display) : (s.setDisp d).faulted = s.faulted := rfl
@[simp] theorem State.setDisp_draws (d : Display) : (s.setDisp d).draws = s.draws := rfl
@[simp] theorem State.setDisp_v (d : Display) (r : RegIdx) : (s.setDisp d).v r = s.v r := rfl

@[simp] theorem State.setDisplayFlags_regs (a b : Bool) : (s.setDisplayFlags a b).regs = s.regs := rfl
@[simp] theorem State.setDisplayFlags_i (a b : Bool) : (s.setDisplayFlags a b).i = s.i := rfl
@[simp] theorem State.setDisplayFlags_pc (a b : Bool) : (s.setDisplayFlags a b).pc = s.pc := rfl
@[simp] theorem State.setDisplayFlags_sp (a b : Bool) : (s.setDisplayFlags a b).sp = s.sp := rfl
@[simp] theorem State.setDisplayFlags_stack (a b : Bool) : (s.setDisplayFlags a b).stack = s.stack := rfl
@[simp] theorem State.setDisplayFlags_dt (a b : Bool) : (s.setDisplayFlags a b).dt = s.dt := rfl
@[simp] theorem State.setDisplayFlags_st (a b : Bool) : (s.setDisplayFlags a b).st = s.st := rfl
@[simp] theorem State.setDisplayFlags_sndDb (a b : Bool) : (s.setDisplayFlags a b).sndDb = s.sndDb := rfl
@[simp] theorem State.setDisplayFlags_mem (a b : Bool) : (s.setDisplayFlags a b).mem = s.mem := rfl
@[simp] theorem State.setDisplayFlags_disp (a b : Bool) : (s.setDisplayFlags a b).disp = s.disp := rfl
@[simp] theorem State.setDisplayFlags_needsRedraw (a b : Bool) : (s.setDisplayFlags a b).needsRedraw = a := rfl
@[simp] theorem State.setDisplayFlags_frameNonblank (a b : Bool) : (s.setDisplayFlags a b).frameNonblank = b := rfl
@[simp] theorem State.setDisplayFlags_keys (a b : Bool) : (s.setDisplayFlags a b).keys = s.keys := rfl
@[simp] theorem State.setDisplayFlags_status (a b : Bool) : (s.setDisplayFlags a b).status = s.status := rfl
@[simp] theorem State.setDisplayFlags_faulted (a b : Bool) : (s.setDisplayFlags a b).faulted = s.faulted := rfl
@[simp] theorem State.setDisplayFlags_draws (a b : Bool) : (s.setDisplayFlags a b).draws = s.draws := rfl
@[simp] theorem State.setDisplayFlags_v (a b : Bool) (r : RegIdx) : (s.setDisplayFlags a b).v r = s.v r := rfl

@[simp] theorem State.setKeys_regs (k : Vector Bool 16) : (s.setKeys k).regs = s.regs := rfl
@[simp] theorem State.setKeys_i (k : Vector Bool 16) : (s.setKeys k).i = s.i := rfl
@[simp] theorem State.setKeys_pc (k : Vector Bool 16) : (s.setKeys k).pc = s.pc := rfl
@[simp] theorem State.setKeys_sp (k : Vector Bool 16) : (s.setKeys k).sp = s.sp := rfl
@[simp] theorem State.setKeys_stack (k : Vector Bool 16) : (s.setKeys k).stack = s.stack := rfl
@[simp] theorem State.setKeys_dt (k : Vector Bool 16) : (s.setKeys k).dt = s.dt := rfl
@[simp] theorem State.setKeys_st (k : Vector Bool 16) : (s.setKeys k).st = s.st := rfl
@[simp] theorem State.setKeys_sndDb (k : Vector Bool 16) : (s.setKeys k).sndDb = s.sndDb := rfl
@[simp] theorem State.setKeys_mem (k : Vector Bool 16) : (s.setKeys k).mem = s.mem := rfl
@[simp] theorem State.setKeys_disp (k : Vector Bool 16) : (s.setKeys k).disp = s.disp := rfl
@[simp] theorem State.setKeys_needsRedraw (k : Vector Bool 16) : (s.setKeys k).needsRedraw = s.needsRedraw := rfl
@[simp] theorem State.setKeys_frameNonblank (k : Vector Bool 16) : (s.setKeys k).frameNonblank = s.frameNonblank := rfl
@[simp] theorem State.setKeys_keys (k : Vector Bool 16) : (s.setKeys k).keys = k := rfl
@[simp] theorem State.setKeys_status (k : Vector Bool 16) : (s.setKeys k).status = s.status := rfl
@[simp] theorem State.setKeys_faulted (k : Vector Bool 16) : (s.setKeys k).faulted = s.faulted := rfl
@[simp] theorem State.setKeys_draws (k : Vector Bool 16) : (s.setKeys k).draws = s.draws := rfl
@[simp] theorem State.setKeys_v (k : Vector Bool 16) (r : RegIdx) : (s.setKeys k).v r = s.v r := rfl

@[simp] theorem State.countDraw_regs : (s.countDraw).regs = s.regs := rfl
@[simp] theorem State.countDraw_i : (s.countDraw).i = s.i := rfl
@[simp] theorem State.countDraw_pc : (s.countDraw).pc = s.pc := rfl
@[simp] theorem State.countDraw_sp : (s.countDraw).sp = s.sp := rfl
@[simp] theorem State.countDraw_stack : (s.countDraw).stack = s.stack := rfl
@[simp] theorem State.countDraw_dt : (s.countDraw).dt = s.dt := rfl
@[simp] theorem State.countDraw_st : (s.countDraw).st = s.st := rfl
@[simp] theorem State.countDraw_sndDb : (s.countDraw).sndDb = s.sndDb := rfl
@[simp] theorem State.countDraw_mem : (s.countDraw).mem = s.mem := rfl
@[simp] theorem State.countDraw_disp : (s.countDraw).disp = s.disp := rfl
@[simp] theorem State.countDraw_needsRedraw : (s.countDraw).needsRedraw = s.needsRedraw := rfl
@[simp] theorem State.countDraw_frameNonblank : (s.countDraw).frameNonblank = s.frameNonblank := rfl
@[simp] theorem State.countDraw_keys : (s.countDraw).keys = s.keys := rfl
@[simp] theorem State.countDraw_status : (s.countDraw).status = s.status := rfl
@[simp] theorem State.countDraw_faulted : (s.countDraw).faulted = s.faulted := rfl
@[simp] theorem State.countDraw_draws : (s.countDraw).draws = s.draws + 1 := rfl
@[simp] theorem State.countDraw_v (r : RegIdx) : (s.countDraw).v r = s.v r := rfl

@[simp] theorem State.finish_regs (e : Status) : (s.finish e).regs = s.regs := rfl
@[simp] theorem State.finish_i (e : Status) : (s.finish e).i = s.i := rfl
@[simp] theorem State.finish_pc (e : Status) : (s.finish e).pc = s.pc := rfl
@[simp] theorem State.finish_sp (e : Status) : (s.finish e).sp = s.sp := rfl
@[simp] theorem State.finish_stack (e : Status) : (s.finish e).stack = s.stack := rfl
@[simp] theorem State.finish_dt (e : Status) : (s.finish e).dt = s.dt := rfl
@[simp] theorem State.finish_st (e : Status) : (s.finish e).st = s.st := rfl
@[simp] theorem State.finish_sndDb (e : Status) : (s.finish e).sndDb = s.sndDb := rfl
@[simp] theorem State.finish_mem (e : Status) : (s.finish e).mem = s.mem := rfl
@[simp] theorem State.finish_disp (e : Status) : (s.finish e).disp = s.disp := rfl
@[simp] theorem State.finish_needsRedraw (e : Status) : (s.finish e).needsRedraw = s.needsRedraw := rfl
@[simp] theorem State.finish_frameNonblank (e : Status) : (s.finish e).frameNonblank = s.frameNonblank := rfl
@[simp] theorem State.finish_keys (e : Status) : (s.finish e).keys = s.keys := rfl
@[simp] theorem State.finish_status (e : Status) : (s.finish e).status = e := rfl
@[simp] theorem State.finish_faulted (e : Status) : (s.finish e).faulted = if e = .ok then s.faulted else true := rfl
@[simp] theorem State.finish_draws (e : Status) : (s.finish e).draws = s.draws := rfl
@[simp] theorem State.finish_v (e : Status) (r : RegIdx) : (s.finish e).v r = s.v r := rfl

@[simp] theorem State.advance_regs : (s.advance).regs = s.regs := rfl
@[simp] theorem State.advance_i : (s.advance).i = s.i := rfl
@[simp] theorem State.advance_pc : (s.advance).pc = s.pc + 2#16 := rfl
@[simp] theorem State.advance_sp : (s.advance).sp = s.sp := rfl
@[simp] theorem State.advance_stack : (s.advance).stack = s.stack := rfl
@[simp] theorem State.advance_dt : (s.advance).dt = s.dt := rfl
@[simp] theorem State.advance_st : (s.advance).st = s.st := rfl
@[simp] theorem State.advance_sndDb : (s.advance).sndDb = s.sndDb := rfl
@[simp] theorem State.advance_mem : (s.advance).mem = s.mem := rfl
@[simp] theorem State.advance_disp : (s.advance).disp = s.disp := rfl
@[simp] theorem State.advance_needsRedraw : (s.advance).needsRedraw = s.needsRedraw := rfl
@[simp] theorem State.advance_frameNonblank : (s.advance).frameNonblank = s.frameNonblank := rfl
@[simp] theorem State.advance_keys : (s.advance).keys = s.keys := rfl
@[simp] theorem State.advance_status : (s.advance).status = s.status := rfl
@[simp] theorem State.advance_faulted : (s.advance).faulted = s.faulted := rfl
@[simp] theorem State.advance_draws : (s.advance).draws = s.draws := rfl
@[simp] theorem State.advance_v (r : RegIdx) : (s.advance).v r = s.v r := rfl

/-- A register write is read back, and leaves every other register alone. -/
@[simp] theorem State.setV_v (x : RegIdx) (b : Byte) (r : RegIdx) :
    (s.setV x b).v r = if r = x then b else s.v r := by
  simp only [State.v, State.setV, Vector.getElem_set, BitVec.toNat_inj]
  simp only [eq_comm]

/-- A skip changes PC alone. -/
theorem State.skipIf_eq (c : Bool) : s.skipIf c = s.setPc (if c then s.pc + 2#16 else s.pc) := by
  cases c <;> rfl

end Sys2Proof.Machine
end

