-- ==== Sys2Proof/Laws/Driver.lean ====
section
/-! SUPPORT. What the host's operations do, said once: a timer tick in its two cases, and the inversion of a host step
and of a program load. -/

namespace Sys2Proof.Machine

/-- A tick that sees ST above 0 (R248). -/
theorem State.tickWith_of_pos {s : State} (k : Nat) (e : Bool) (h : 0 < s.st.toNat) :
    s.tickWith k e =
      (if debounceOpen k s.sndDb && e then some .play else none,
        { s with
          dt := tickDelay s.dt, st := BitVec.ofNat 8 (s.st.toNat - 1)
          sndDb := debounceAfter k s.sndDb (BitVec.ofNat 8 (s.st.toNat - 1)) }) := by
  rw [State.tickWith, if_pos h]
  rfl

/-- A tick that sees ST = 0 (R248, R250). -/
theorem State.tickWith_of_zero {s : State} (k : Nat) (e : Bool) (h : s.st.toNat = 0) :
    s.tickWith k e = (none, { s with dt := tickDelay s.dt, sndDb := none }) := by
  rw [State.tickWith, if_neg (by omega)]
  rfl

/-- The count after a tick that leaves ST above 0: 1 after an open window, else one more. -/
theorem debounceAfter_of_ne {k : Nat} {db : Option Nat} {st : Byte} (h : st ≠ 0) :
    debounceAfter k db st = if debounceOpen k db then some 1 else db.map (· + 1) := if_neg h

/-- A tick after which ST is not 0 saw ST above 0. -/
theorem State.st_pos_of_tick {s : State} (h : s.tickTimers.2.st ≠ 0) : 0 < s.st.toNat := by
  apply Nat.pos_of_ne_zero
  intro hs
  apply h
  rw [State.tickTimers, State.tickWith_of_zero _ _ hs]
  exact BitVec.eq_of_toNat_eq hs

/-- The host's step answers what `step` answers, with the status stored. -/
theorem transact_step_next {s t : State} {r : HostReply} (h : transact .step s = .next (r, t)) :
    step s = .next t ∧ r = .status t.status := by
  simp only [transact, hostStep] at h
  split at h
  · cases h; exact ⟨‹_›, rfl⟩
  · cases h
  · cases h

/-- A program load changes memory at most. -/
theorem transact_load_next {s t : State} {bytes : List Byte} {r : HostReply}
    (h : transact (.loadProgram bytes) s = .next (r, t)) : t = { s with mem := t.mem } := by
  simp only [transact, hostLoad] at h
  split at h
  · rename_i hl
    cases h
    unfold State.loadProgram at hl
    split at hl <;> cases hl
    rfl
  · cases h; rfl

end Sys2Proof.Machine
end

