-- ==== Sys2Proof/Laws/Encoding.lean ====
section
/-! SUPPORT. The fields of a word built by the encoder, one set per format (spec 30_encoding.md R81, R83), so that no proof
about decoding an encoding looks at single bits. -/

namespace Sys2Proof

theorem field_low {a b k : Nat} (p : BitVec a) (q : BitVec b) (h : k = b) :
    (p ++ q).extractLsb' 0 k = q.setWidth k := by
  subst h
  ext i hi
  simp [BitVec.getElem_extractLsb', BitVec.getLsbD_append, hi, BitVec.getLsbD_eq_getElem]

theorem field_high {a b k : Nat} (p : BitVec a) (q : BitVec b) (h : k = a) :
    (p ++ q).extractLsb' b k = p.setWidth k := by
  subst h
  ext i hi
  simp [BitVec.getElem_extractLsb', BitVec.getLsbD_append, BitVec.getLsbD_eq_getElem, hi]

/-- A field inside the low part of a concatenation is a field of that part. -/
theorem field_in_low {a b s k : Nat} (p : BitVec a) (q : BitVec b) (h : s + k ≤ b) :
    (p ++ q).extractLsb' s k = q.extractLsb' s k := by
  ext i hi
  simp [BitVec.getElem_extractLsb', BitVec.getLsbD_append, show s + i < b by omega]

/-- A field inside the high part of a concatenation is a field of that part. -/
theorem field_in_high {a b s k : Nat} (p : BitVec a) (q : BitVec b) (h : b ≤ s) :
    (p ++ q).extractLsb' s k = p.extractLsb' (s - b) k := by
  ext i hi
  simp [BitVec.getElem_extractLsb', BitVec.getLsbD_append, show ¬ s + i < b by omega,
    show s + i - b = s - b + i by omega]

/-! Format NNN -/

@[simp] theorem fieldP_nnn (p : Nibble) (nnn : Imm12) : fieldP (p ++ nnn) = p := by
  simpa [fieldP] using field_high p nnn (k := 4) rfl

@[simp] theorem fieldNNN_nnn (p : Nibble) (nnn : Imm12) : fieldNNN (p ++ nnn) = nnn := by
  simpa [fieldNNN] using field_low p nnn (k := 12) rfl

@[simp] theorem fieldNN_nnn (p : Nibble) (nnn : Imm12) : fieldNN (p ++ nnn) = nnn.extractLsb' 0 8 :=
  field_in_low p nnn (by decide)

@[simp] theorem fieldX_nnn (p : Nibble) (nnn : Imm12) : fieldX (p ++ nnn) = nnn.extractLsb' 8 4 :=
  field_in_low p nnn (by decide)

/-! Formats XNN and X -/

@[simp] theorem fieldP_xnn (p x : Nibble) (nn : Byte) : fieldP (p ++ x ++ nn) = p := by
  simpa [fieldP] using (field_in_high (p ++ x) nn (s := 12) (k := 4) (by decide)).trans (field_high p x (k := 4) rfl)

@[simp] theorem fieldX_xnn (p x : Nibble) (nn : Byte) : fieldX (p ++ x ++ nn) = x := by
  simpa [fieldX] using (field_in_high (p ++ x) nn (s := 8) (k := 4) (by decide)).trans (field_low p x (k := 4) rfl)

@[simp] theorem fieldNN_xnn (p x : Nibble) (nn : Byte) : fieldNN (p ++ x ++ nn) = nn := by
  simpa [fieldNN] using field_low (p ++ x) nn (k := 8) rfl

/-! Formats XY and XYN -/

@[simp] theorem fieldP_xyn (p x y n : Nibble) : fieldP (p ++ x ++ y ++ n) = p := by
  simpa [fieldP] using (field_in_high (p ++ x ++ y) n (s := 12) (k := 4) (by decide)).trans
    ((field_in_high (p ++ x) y (s := 8) (k := 4) (by decide)).trans (field_high p x (k := 4) rfl))

@[simp] theorem fieldX_xyn (p x y n : Nibble) : fieldX (p ++ x ++ y ++ n) = x := by
  simpa [fieldX] using (field_in_high (p ++ x ++ y) n (s := 8) (k := 4) (by decide)).trans
    ((field_in_high (p ++ x) y (s := 4) (k := 4) (by decide)).trans (field_low p x (k := 4) rfl))

@[simp] theorem fieldY_xyn (p x y n : Nibble) : fieldY (p ++ x ++ y ++ n) = y := by
  simpa [fieldY] using (field_in_high (p ++ x ++ y) n (s := 4) (k := 4) (by decide)).trans
    (field_low (p ++ x) y (k := 4) rfl)

@[simp] theorem fieldN_xyn (p x y n : Nibble) : fieldN (p ++ x ++ y ++ n) = n := by
  simpa [fieldN] using field_low (p ++ x ++ y) n (k := 4) rfl

/-! Bytes -/

/-- The two bytes of a word, the high one first, make the word again (R63). -/
@[simp] theorem bigEndian_bytes (w : Word) : bigEndian (highByte w) (lowByte w) = w := by
  apply BitVec.eq_of_getLsbD_eq
  intro i hi
  simp only [bigEndian, highByte, lowByte]
  rw [BitVec.getLsbD_append, BitVec.getLsbD_extractLsb', BitVec.getLsbD_extractLsb']
  by_cases h : i < 8
  · simp [h]
  · simp [h, show i - 8 < 8 by omega, show 8 + (i - 8) = i by omega]

/-- A big-endian word as a number (R63). -/
theorem toNat_bigEndian (hi lo : Byte) : (bigEndian hi lo).toNat = hi.toNat * 256 + lo.toNat := by
  rw [bigEndian, BitVec.toNat_append, ← Nat.shiftLeft_add_eq_or_of_lt lo.isLt, Nat.shiftLeft_eq]

end Sys2Proof
end

