-- ==== Sys2Proof/Laws/Memory.lean ====
section
/-! SUPPORT. What the memory operations do: a read after a write, and that every operation keeps the canonical form. -/

namespace Sys2Proof.Machine

/-! ## One cell -/

theorem Memory.mem_cell {a : Nat} {v : Byte} {c : Host.Cell} :
    c ∈ Memory.cell a v ↔ c = (a, v) ∧ v ≠ Memory.initial a := by
  unfold Memory.cell
  split <;> simp_all

theorem Memory.read_of_lt {m : Memory} {a : Nat} (h : ∀ c ∈ m, a < c.1) : m.read a = Memory.initial a := by
  cases m with
  | nil => rfl
  | cons c m =>
    have := h c (by simp)
    simp [Memory.read, this, Nat.ne_of_gt this]

theorem Memory.read_cell_append {a : Nat} {v : Byte} {m : Memory} (h : ∀ c ∈ m, a < c.1) (b : Nat) :
    Memory.read (Memory.cell a v ++ m) b = if b = a then v else m.read b := by
  unfold Memory.cell
  split
  · rename_i hv
    split
    · subst hv; simp_all [Memory.read_of_lt h]
    · simp
  · by_cases hb : b = a
    · simp [Memory.read, hb]
    · simp only [List.cons_append, List.nil_append, Memory.read, if_neg (Ne.symm hb), if_neg hb]
      split
      · rw [Memory.read_of_lt]; intro c hc; have := h c hc; omega
      · rfl

/-! ## The canonical form -/

theorem Memory.wf_nil : Memory.wf [] := by simp [Memory.wf]

theorem Memory.wf_cons {c : Host.Cell} {m : Memory} :
    Memory.wf (c :: m) ↔
      (∀ d ∈ m, c.1 < d.1) ∧ (c.1 < memSize ∧ c.2 ≠ Memory.initial c.1) ∧ Memory.wf m := by
  simp only [Memory.wf, List.pairwise_cons, List.forall_mem_cons]
  tauto

theorem Memory.wf_cell_append {a : Nat} {v : Byte} {m : Memory} (ha : a < memSize) (h : ∀ c ∈ m, a < c.1)
    (hm : Memory.wf m) : Memory.wf (Memory.cell a v ++ m) := by
  unfold Memory.cell
  split
  · exact hm
  · exact Memory.wf_cons.2 ⟨h, ⟨ha, by assumption⟩, hm⟩

theorem Memory.mem_write {m : Memory} {a : Nat} {v : Byte} {c : Host.Cell} (h : c ∈ m.write a v) :
    c.1 = a ∨ c ∈ m := by
  induction m with
  | nil => simp_all [Memory.write, Memory.mem_cell]
  | cons d m ih =>
    simp only [Memory.write] at h
    split at h
    · simp only [List.mem_append, Memory.mem_cell, List.mem_cons] at h
      rcases h with ⟨rfl, _⟩ | h <;> simp_all
    · split at h
      · simp only [List.mem_append, Memory.mem_cell] at h
        rcases h with ⟨rfl, _⟩ | h <;> simp_all
      · simp only [List.mem_cons] at h
        rcases h with rfl | h
        · simp
        · rcases ih h with h | h <;> simp [h]

/-- A write keeps the canonical form. -/
theorem Memory.wf_write {m : Memory} {a : Nat} {v : Byte} (ha : a < memSize) (hm : Memory.wf m) :
    Memory.wf (m.write a v) := by
  induction m with
  | nil => simpa [Memory.write] using Memory.wf_cell_append (m := []) (v := v) ha (by simp) hm
  | cons d m ih =>
    have hd := Memory.wf_cons.1 hm
    simp only [Memory.write]
    split
    · refine Memory.wf_cell_append ha ?_ hm
      intro c hc
      rcases List.mem_cons.1 hc with rfl | hc
      · assumption
      · have := hd.1 c hc; omega
    · split
      · rename_i h; exact Memory.wf_cell_append ha (fun c hc => h ▸ hd.1 c hc) hd.2.2
      · refine Memory.wf_cons.2 ⟨?_, hd.2.1, ih hd.2.2⟩
        intro c hc
        rcases Memory.mem_write hc with h | h
        · omega
        · exact hd.1 c h

/-- A read after a write: the byte written at its address, and every other address as before. -/
theorem Memory.read_write {m : Memory} {a : Nat} {v : Byte} (hm : Memory.wf m) (b : Nat) :
    (m.write a v).read b = if b = a then v else m.read b := by
  induction m with
  | nil => simpa [Memory.write] using Memory.read_cell_append (m := []) (v := v) (by simp) b
  | cons d m ih =>
    have hd := Memory.wf_cons.1 hm
    simp only [Memory.write]
    split
    · rw [Memory.read_cell_append]
      intro c hc
      rcases List.mem_cons.1 hc with rfl | hc
      · assumption
      · have := hd.1 c hc; omega
    · split
      · rename_i h
        rw [Memory.read_cell_append (fun c hc => h ▸ hd.1 c hc)]
        split
        · rfl
        · simp only [Memory.read]
          split
          · omega
          · split
            · rw [Memory.read_of_lt]; intro c hc; have := hd.1 c hc; omega
            · rfl
      · simp only [Memory.read]
        rw [ih hd.2.2]
        split
        · split
          · omega
          · rfl
        · split
          · split
            · omega
            · rfl
          · rfl

/-! ## Blocks -/

/-- Writing bytes below the top of memory keeps the canonical form. -/
theorem Memory.wf_writeBytes {m : Memory} {a : Nat} {bs : List Byte} (ha : a + bs.length ≤ memSize)
    (hm : Memory.wf m) : Memory.wf (m.writeBytes a bs) := by
  induction bs generalizing m a with
  | nil => exact hm
  | cons b bs ih =>
    simp only [List.length_cons] at ha
    exact ih (by omega) (Memory.wf_write (by omega) hm)

/-- A read after writing bytes: the byte of its offset inside the range, and every other address as before. -/
theorem Memory.read_writeBytes {m : Memory} {a : Nat} {bs : List Byte} (ha : a + bs.length ≤ memSize)
    (hm : Memory.wf m) (b : Nat) :
    (m.writeBytes a bs).read b = if a ≤ b then (bs[b - a]?).getD (m.read b) else m.read b := by
  induction bs generalizing m a with
  | nil => simp [Memory.writeBytes]
  | cons v bs ih =>
    simp only [List.length_cons] at ha
    rw [Memory.writeBytes, ih (by omega) (Memory.wf_write (by omega) hm), Memory.read_write hm]
    by_cases h : b = a
    · subst h; simp
    · by_cases h1 : a + 1 ≤ b
      · have : b - a = (b - (a + 1)) + 1 := by omega
        rw [if_pos h1, if_pos (show a ≤ b by omega), this, List.getElem?_cons_succ, if_neg h]
      · simp [h, h1, show ¬ a ≤ b by omega]

@[simp] theorem Memory.length_readBytes (m : Memory) (a n : Nat) : (m.readBytes a n).length = n := by
  simp [Memory.readBytes]

theorem Memory.getElem?_readBytes (m : Memory) (a n k : Nat) (h : k < n) :
    (m.readBytes a n)[k]? = some (m.read (a + k)) := by
  simp [Memory.readBytes, h]

/-! ## Checked accesses and fetch -/

/-- A block load answers the bytes when the whole range is in memory, and only then. -/
theorem State.loadBlock_eq_some {s : State} {n : Nat} {bs : List Byte} :
    s.loadBlock n = some bs ↔ s.i.toNat + n ≤ memSize ∧ bs = s.mem.readBytes s.i.toNat n := by
  unfold State.loadBlock inBounds
  split <;> simp_all [eq_comm]

/-- A block store writes when the whole range is in memory, and only then; it changes memory alone. -/
theorem State.storeBlock_eq_some {s t : State} {bs : List Byte} :
    s.storeBlock bs = some t ↔
      s.i.toNat + bs.length ≤ memSize ∧ t = s.setMem (s.mem.writeBytes s.i.toNat bs) := by
  unfold State.storeBlock inBounds
  split <;> simp_all [eq_comm]

theorem State.loadBlock_eq_none {s : State} {n : Nat} : s.loadBlock n = none ↔ memSize < s.i.toNat + n := by
  unfold State.loadBlock inBounds
  split <;> simp_all

theorem State.storeBlock_eq_none {s : State} {bs : List Byte} :
    s.storeBlock bs = none ↔ memSize < s.i.toNat + bs.length := by
  unfold State.storeBlock inBounds
  split <;> simp_all

/-- A fetch answers a word exactly when PC lies in [0x200, 4094]. -/
theorem State.fetch_eq_some {s : State} {w : Word} :
    s.fetch = some w ↔ (progBase ≤ s.pc.toNat ∧ s.pc.toNat ≤ pcMax) ∧ w = s.mem.fetch16 s.pc.toNat := by
  unfold State.fetch
  split <;> simp_all [eq_comm]

theorem State.fetch_eq_none {s : State} : s.fetch = none ↔ ¬(progBase ≤ s.pc.toNat ∧ s.pc.toNat ≤ pcMax) := by
  unfold State.fetch
  split <;> simp_all

/-! ## Every operation keeps the canonical form -/

theorem State.reset_mem_wf : Memory.wf State.reset.mem := Memory.wf_nil

theorem State.storeBlock_wf {s t : State} {bs : List Byte} (h : s.storeBlock bs = some t) (hm : Memory.wf s.mem) :
    Memory.wf t.mem := by
  obtain ⟨hb, rfl⟩ := State.storeBlock_eq_some.1 h
  exact Memory.wf_writeBytes hb hm

theorem Memory.wf_afterReset (preserve : Bool) {m : Memory} (hm : Memory.wf m) :
    Memory.wf (m.afterReset preserve) := by
  unfold Memory.afterReset
  split
  · exact ⟨hm.1.filter _, fun c hc => hm.2 c (List.mem_filter.1 hc).1⟩
  · exact Memory.wf_nil

theorem State.loadProgram_wf {s t : State} {bs : List Byte} (h : s.loadProgram bs = some t)
    (hm : Memory.wf s.mem) : Memory.wf t.mem := by
  unfold State.loadProgram at h
  split at h
  · rename_i hl
    obtain rfl := Option.some.inj h
    exact Memory.wf_writeBytes (by simp only [memSize, progBase, maxProgram] at *; omega) hm
  · cases h

theorem State.placeWord_wf {s : State} {w : Word} (hm : Memory.wf s.mem) : Memory.wf (s.placeWord w).mem := by
  unfold State.placeWord
  split
  · rename_i h
    exact Memory.wf_writeBytes (by simp only [memSize, pcMax] at *; simp; omega) hm
  · exact hm

end Sys2Proof.Machine
end

