-- ==== Sys2Proof/Laws/Ops.lean ====
section
/-! SUPPORT. What each shared operation over registers, call stack, flags and display does, said once. -/

namespace Sys2Proof.Machine

/-! ## Call stack -/

theorem State.push_eq_none {s : State} {v : Word} : s.push v = none ↔ s.sp.val = 16 := by
  unfold State.push
  split
  · simp; omega
  · simp; omega

/-- A push stores at SP and counts up; it changes the stack and SP alone. -/
theorem State.push_eq_some {s t : State} {v : Word} (h : s.push v = some t) :
    ∃ (hs : s.sp.val < 16) (hn : s.sp.val + 1 < 17),
      t = s.setStack (s.stack.set s.sp.val v hs) ⟨s.sp.val + 1, hn⟩ := by
  unfold State.push at h
  split at h
  · rename_i hs; exact ⟨hs, by omega, (Option.some.inj h).symm⟩
  · cases h

theorem State.push_of_lt {s : State} {v : Word} (h : s.sp.val < 16) :
    s.push v = some (s.setStack (s.stack.set s.sp.val v h) ⟨s.sp.val + 1, by omega⟩) := by
  simp [State.push, h]

theorem State.pop_eq_none {s : State} : s.pop = none ↔ s.sp.val = 0 := by
  unfold State.pop
  split
  · simp; omega
  · simp; omega

/-- A pop answers the entry below SP and counts down; the array itself stays. -/
theorem State.pop_eq_some {s t : State} {w : Word} (h : s.pop = some (w, t)) :
    ∃ (_ : 0 < s.sp.val) (hk : s.sp.val - 1 < 16) (hn : s.sp.val - 1 < 17),
      w = s.stack[s.sp.val - 1] ∧ t = s.setStack s.stack ⟨s.sp.val - 1, hn⟩ := by
  unfold State.pop at h
  split at h
  · rename_i hs
    have := Option.some.inj h
    exact ⟨hs, by omega, by omega, (Prod.ext_iff.1 this).1.symm, (Prod.ext_iff.1 this).2.symm⟩
  · cases h

theorem State.pop_of_pos {s : State} (h : 0 < s.sp.val) :
    s.pop = some (s.stack[s.sp.val - 1]'(by omega), s.setStack s.stack ⟨s.sp.val - 1, by omega⟩) := by
  simp [State.pop, h]

/-! ## Status -/

/-- An instruction that completes only sets the status. -/
theorem complete_eq (s : State) : complete s = .next { s with status := .ok } := rfl

/-- An instruction that raises only sets the status and the mark. -/
theorem raise_eq {e : Status} (h : e ≠ .ok) (s : State) :
    raise e s = .next { s with status := e, faulted := true } := by
  simp [raise, State.finish, h]

/-- The two ways an instruction ends, told apart by the status. -/
theorem raise_status (e : Status) (s : State) : raise e s = .next (s.finish e) ∧ (s.finish e).status = e := ⟨rfl, rfl⟩

/-! ## Registers -/

/-- Writing a run of registers changes the register file alone. -/
theorem State.setRegs_eq (k : Nat) (bs : List Byte) (s : State) :
    State.setRegs k bs s = { s with regs := (State.setRegs k bs s).regs } := by
  induction bs generalizing k s with
  | nil => rfl
  | cons b bs ih => rw [State.setRegs, ih]; rfl

/-- Writing a run of registers from number k on: each register of the run gets the byte of its offset. -/
theorem State.setRegs_v (k : Nat) (bs : List Byte) (s : State) (h : k + bs.length ≤ 16) (r : RegIdx) :
    (State.setRegs k bs s).v r = if k ≤ r.toNat then (bs[r.toNat - k]?).getD (s.v r) else s.v r := by
  induction bs generalizing k s with
  | nil => simp [State.setRegs]
  | cons b bs ih =>
    simp only [List.length_cons] at h
    rw [State.setRegs, ih _ _ (by omega), State.setV_v]
    have hr : r = BitVec.ofNat 4 k ↔ r.toNat = k := by
      rw [← BitVec.toNat_inj, BitVec.toNat_ofNat, Nat.mod_eq_of_lt (by omega)]
    by_cases h0 : r.toNat = k
    · simp [hr, h0]
    · by_cases h1 : k + 1 ≤ r.toNat
      · have : r.toNat - k = (r.toNat - (k + 1)) + 1 := by omega
        rw [if_pos h1, if_pos (show k ≤ r.toNat by omega), this, List.getElem?_cons_succ, if_neg (by rw [hr]; exact h0)]
      · simp [hr, h0, h1, show ¬ k ≤ r.toNat by omega]

/-! ## Result and flag -/

/-- `WriteResultAndFlag` changes the register file alone. -/
theorem State.writeResultAndFlag_eq (last : Bool) (x : RegIdx) (o : AluOut) (s : State) :
    s.writeResultAndFlag last x o = { s with regs := (s.writeResultAndFlag last x o).regs } := by
  unfold State.writeResultAndFlag
  split
  · rfl
  · split <;> rfl

/-- What `WriteResultAndFlag` leaves in each register. -/
theorem State.writeResultAndFlag_v (last : Bool) (x : RegIdx) (o : AluOut) (s : State) (r : RegIdx) :
    (s.writeResultAndFlag last x o).v r =
      if r = vF then (if x = vF ∧ last = false then o.result else flagByte o.flag)
      else if r = x then o.result else s.v r := by
  unfold State.writeResultAndFlag
  by_cases hx : x = vF
  · cases last <;> by_cases hr : r = vF <;> simp [hx, hr]
  · simp [hx]

/-- The Legacy shift's write of Vy changes the register file alone. -/
theorem State.writeShiftedVy_eq (d : Dialect) (b : Bool) (y : RegIdx) (r : Byte) (s : State) :
    s.writeShiftedVy d b y r = { s with regs := (s.writeShiftedVy d b y r).regs } := by
  unfold State.writeShiftedVy
  split <;> rfl

/-- What the Legacy shift's write of Vy leaves in each register. -/
theorem State.writeShiftedVy_v (d : Dialect) (b : Bool) (y : RegIdx) (r : Byte) (s : State) (k : RegIdx) :
    (s.writeShiftedVy d b y r).v k = if (d = .legacy ∧ b = true) ∧ k = y then r else s.v k := by
  unfold State.writeShiftedVy
  split <;> simp_all

/-- A shift changes the register file alone. -/
theorem State.shiftWith_eq (d : Dialect) (b last : Bool) (op : Byte → AluOut) (x y : RegIdx) (s : State) :
    s.shiftWith d b last op x y = { s with regs := (s.shiftWith d b last op x y).regs } := by
  simp only [State.shiftWith]
  rw [State.writeResultAndFlag_eq, State.writeShiftedVy_eq]

/-- The bit a right shift puts in VF, as a number. -/
theorem shiftRight_flag (a : Byte) : (flagByte (shiftRight a).flag).toNat = a.toNat % 2 := by
  revert a; decide

/-- The bit a left shift puts in VF, as a number. -/
theorem shiftLeft_flag (a : Byte) : (flagByte (shiftLeft a).flag).toNat = a.toNat / 128 := by
  revert a; decide

/-! ## Block operands -/

@[simp] theorem State.length_blockRegs (s : State) (x : RegIdx) : (s.blockRegs x).length = x.toNat + 1 := by
  have := x.isLt
  simp [State.blockRegs, blockCount]
  omega

/-- The k-th byte of a block store is register k. -/
theorem State.getElem?_blockRegs (s : State) {x r : RegIdx} (h : r ≤ x) :
    (s.blockRegs x)[r.toNat]? = some (s.v r) := by
  have hr : r.toNat < blockCount x := Nat.lt_succ_of_le h
  have := r.isLt
  simp [State.blockRegs, hr, State.v]

/-- I after a block transfer, as a number. -/
theorem toNat_indexAfterBlock (d : Dialect) (i : Word) (x : RegIdx) :
    (indexAfterBlock d i x).toNat = if d = .legacy then (i.toNat + x.toNat + 1) % 65536 else i.toNat := by
  have := x.isLt
  cases d
  · simp [indexAfterBlock, blockCount]; omega
  · simp [indexAfterBlock]

/-! ## How an instruction ends -/

/-- Every instruction answers a next state: the finish of some state with a status, and that state is the one it was
entered with where the status is an error (R106). -/
theorem exec_ends (i : Instr) (s : State) :
    ∃ s' e, exec i s = .next (State.finish e s') ∧ (e ≠ .ok → s' = s) := by
  cases i <;> simp only [exec]
  all_goals try exact ⟨_, .ok, rfl, fun h => absurd rfl h⟩
  case ret => unfold execRet; split; exacts [⟨s, _, rfl, fun _ => rfl⟩, ⟨_, .ok, rfl, fun h => absurd rfl h⟩]
  case call nnn => unfold execCall; split; exacts [⟨s, _, rfl, fun _ => rfl⟩, ⟨_, .ok, rfl, fun h => absurd rfl h⟩]
  case drw x y n => unfold execDrw; split; exacts [⟨s, _, rfl, fun _ => rfl⟩, ⟨_, .ok, rfl, fun h => absurd rfl h⟩]
  case ldBVx x => unfold execLdBVx; split; exacts [⟨s, _, rfl, fun _ => rfl⟩, ⟨_, .ok, rfl, fun h => absurd rfl h⟩]
  case ldMemVx x => unfold execLdMemVx; split; exacts [⟨s, _, rfl, fun _ => rfl⟩, ⟨_, .ok, rfl, fun h => absurd rfl h⟩]
  case ldVxMem x => unfold execLdVxMem; split; exacts [⟨s, _, rfl, fun _ => rfl⟩, ⟨_, .ok, rfl, fun h => absurd rfl h⟩]

/-! ## Display -/

/-- Toggling a cell changes that cell alone, and only for a set sprite bit. -/
theorem Display.pixel_xorPixel (d : Display) (r r' : Fin 32) (c c' : Fin 64) (bit : Bool) :
    (d.xorPixel r c bit).pixel r' c' = (d.pixel r' c' ^^ (bit && decide (r' = r ∧ c' = c))) := by
  cases bit
  · simp [Display.xorPixel]
  · by_cases hr : r' = r <;> by_cases hc : c' = c <;>
      simp_all [Display.xorPixel, Display.pixel, Fin.ext_iff, eq_comm]

@[simp] theorem Display.pixel_blank (r : Fin 32) (c : Fin 64) : Display.blank.pixel r c = false := by
  simp [Display.pixel, Display.blank]

/-- Two displays with the same pixels are the same. -/
theorem Display.ext_pixel {d e : Display} (h : ∀ r c, d.pixel r c = e.pixel r c) : d = e := by
  apply Vector.ext
  intro i hi
  apply Vector.ext
  intro j hj
  exact h ⟨i, hi⟩ ⟨j, hj⟩

end Sys2Proof.Machine
end

