-- ==== Sys2Proof/Laws/PerInstr.lean ====
section
/-! SUPPORT. For every instruction as syntax: its encoding has the fixed bits of its own row of the opcode map
(30_encoding.md R84). One lemma per constructor, over one lemma per format (R83). -/

namespace Sys2Proof

/-- The encoding of i has the fixed bits of the row i stands in. -/
def Laws.OpcodeRow.Statement (i : Instr) : Prop :=
  ∃ row, opcodeMap[rowOf i]? = some row ∧ encode i &&& row.2 = row.1

/-- Masking a concatenation masks its parts. -/
theorem Laws.and_append {a b : Nat} (p m : BitVec a) (q k : BitVec b) :
    (p ++ q) &&& (m ++ k) = (p &&& m) ++ (q &&& k) := by
  ext i hi
  simp only [BitVec.getElem_and, BitVec.getElem_append]
  split <;> simp

/-- Format NNN: the family nibble is fixed. -/
theorem Laws.fixed_nnn (p : Nibble) (nnn : Imm12) : (p ++ nnn : Word) &&& 0xF000#16 = p ++ 0x000#12 := by
  rw [show (0xF000#16 : Word) = 0xF#4 ++ 0x000#12 by decide, Laws.and_append, BitVec.and_zero,
    show (0xF#4 : Nibble) = BitVec.allOnes 4 by decide, BitVec.and_allOnes]

/-- Format XNN: the family nibble is fixed. -/
theorem Laws.fixed_xnn (p x : Nibble) (nn : Byte) :
    (p ++ x ++ nn : Word) &&& 0xF000#16 = p ++ 0x0#4 ++ 0x00#8 := by
  rw [show (0xF000#16 : Word) = (0xF#4 ++ 0x0#4) ++ 0x00#8 by decide, Laws.and_append, Laws.and_append,
    BitVec.and_zero, BitVec.and_zero, show (0xF#4 : Nibble) = BitVec.allOnes 4 by decide, BitVec.and_allOnes]

/-- Format XY: the family nibble and the low nibble are fixed. -/
theorem Laws.fixed_xy (p x y f : Nibble) :
    (p ++ x ++ y ++ f : Word) &&& 0xF00F#16 = p ++ 0x0#4 ++ 0x0#4 ++ f := by
  rw [show (0xF00F#16 : Word) = ((0xF#4 ++ 0x0#4) ++ 0x0#4) ++ 0xF#4 by decide, Laws.and_append, Laws.and_append,
    Laws.and_append, BitVec.and_zero, BitVec.and_zero, show (0xF#4 : Nibble) = BitVec.allOnes 4 by decide,
    BitVec.and_allOnes, BitVec.and_allOnes]

/-- Format XYN: the family nibble is fixed. -/
theorem Laws.fixed_xyn (p x y n : Nibble) :
    (p ++ x ++ y ++ n : Word) &&& 0xF000#16 = p ++ 0x0#4 ++ 0x0#4 ++ 0x0#4 := by
  rw [show (0xF000#16 : Word) = ((0xF#4 ++ 0x0#4) ++ 0x0#4) ++ 0x0#4 by decide, Laws.and_append, Laws.and_append,
    Laws.and_append, BitVec.and_zero, BitVec.and_zero, BitVec.and_zero,
    show (0xF#4 : Nibble) = BitVec.allOnes 4 by decide, BitVec.and_allOnes]

/-- Format X: the family nibble and the low byte are fixed. -/
theorem Laws.fixed_x (p x : Nibble) (ff : Byte) :
    (p ++ x ++ ff : Word) &&& 0xF0FF#16 = p ++ 0x0#4 ++ ff := by
  rw [show (0xF0FF#16 : Word) = (0xF#4 ++ 0x0#4) ++ 0xFF#8 by decide, Laws.and_append, Laws.and_append,
    BitVec.and_zero, show (0xF#4 : Nibble) = BitVec.allOnes 4 by decide, BitVec.and_allOnes,
    show (0xFF#8 : Byte) = BitVec.allOnes 8 by decide, BitVec.and_allOnes]

theorem Laws.OpcodeRow.cls : Laws.OpcodeRow.Statement .cls :=
  ⟨_, rfl, by decide⟩

theorem Laws.OpcodeRow.ret : Laws.OpcodeRow.Statement .ret :=
  ⟨_, rfl, by decide⟩

theorem Laws.OpcodeRow.sys (nnn : Imm12) : Laws.OpcodeRow.Statement (.sys nnn) :=
  ⟨_, rfl, Laws.fixed_nnn _ _⟩

theorem Laws.OpcodeRow.jp (nnn : Imm12) : Laws.OpcodeRow.Statement (.jp nnn) :=
  ⟨_, rfl, Laws.fixed_nnn _ _⟩

theorem Laws.OpcodeRow.call (nnn : Imm12) : Laws.OpcodeRow.Statement (.call nnn) :=
  ⟨_, rfl, Laws.fixed_nnn _ _⟩

theorem Laws.OpcodeRow.seByte (x : RegIdx) (nn : Byte) : Laws.OpcodeRow.Statement (.seByte x nn) :=
  ⟨_, rfl, Laws.fixed_xnn _ _ _⟩

theorem Laws.OpcodeRow.sneByte (x : RegIdx) (nn : Byte) : Laws.OpcodeRow.Statement (.sneByte x nn) :=
  ⟨_, rfl, Laws.fixed_xnn _ _ _⟩

theorem Laws.OpcodeRow.seReg (x : RegIdx) (y : RegIdx) : Laws.OpcodeRow.Statement (.seReg x y) :=
  ⟨_, rfl, Laws.fixed_xy _ _ _ _⟩

theorem Laws.OpcodeRow.ldByte (x : RegIdx) (nn : Byte) : Laws.OpcodeRow.Statement (.ldByte x nn) :=
  ⟨_, rfl, Laws.fixed_xnn _ _ _⟩

theorem Laws.OpcodeRow.addByte (x : RegIdx) (nn : Byte) : Laws.OpcodeRow.Statement (.addByte x nn) :=
  ⟨_, rfl, Laws.fixed_xnn _ _ _⟩

theorem Laws.OpcodeRow.ldReg (x : RegIdx) (y : RegIdx) : Laws.OpcodeRow.Statement (.ldReg x y) :=
  ⟨_, rfl, Laws.fixed_xy _ _ _ _⟩

theorem Laws.OpcodeRow.orReg (x : RegIdx) (y : RegIdx) : Laws.OpcodeRow.Statement (.orReg x y) :=
  ⟨_, rfl, Laws.fixed_xy _ _ _ _⟩

theorem Laws.OpcodeRow.andReg (x : RegIdx) (y : RegIdx) : Laws.OpcodeRow.Statement (.andReg x y) :=
  ⟨_, rfl, Laws.fixed_xy _ _ _ _⟩

theorem Laws.OpcodeRow.xorReg (x : RegIdx) (y : RegIdx) : Laws.OpcodeRow.Statement (.xorReg x y) :=
  ⟨_, rfl, Laws.fixed_xy _ _ _ _⟩

theorem Laws.OpcodeRow.addReg (x : RegIdx) (y : RegIdx) : Laws.OpcodeRow.Statement (.addReg x y) :=
  ⟨_, rfl, Laws.fixed_xy _ _ _ _⟩

theorem Laws.OpcodeRow.subReg (x : RegIdx) (y : RegIdx) : Laws.OpcodeRow.Statement (.subReg x y) :=
  ⟨_, rfl, Laws.fixed_xy _ _ _ _⟩

theorem Laws.OpcodeRow.shr (x : RegIdx) (y : RegIdx) : Laws.OpcodeRow.Statement (.shr x y) :=
  ⟨_, rfl, Laws.fixed_xy _ _ _ _⟩

theorem Laws.OpcodeRow.subnReg (x : RegIdx) (y : RegIdx) : Laws.OpcodeRow.Statement (.subnReg x y) :=
  ⟨_, rfl, Laws.fixed_xy _ _ _ _⟩

theorem Laws.OpcodeRow.shl (x : RegIdx) (y : RegIdx) : Laws.OpcodeRow.Statement (.shl x y) :=
  ⟨_, rfl, Laws.fixed_xy _ _ _ _⟩

theorem Laws.OpcodeRow.sneReg (x : RegIdx) (y : RegIdx) : Laws.OpcodeRow.Statement (.sneReg x y) :=
  ⟨_, rfl, Laws.fixed_xy _ _ _ _⟩

theorem Laws.OpcodeRow.ldI (nnn : Imm12) : Laws.OpcodeRow.Statement (.ldI nnn) :=
  ⟨_, rfl, Laws.fixed_nnn _ _⟩

theorem Laws.OpcodeRow.jpV0 (nnn : Imm12) : Laws.OpcodeRow.Statement (.jpV0 nnn) :=
  ⟨_, rfl, Laws.fixed_nnn _ _⟩

theorem Laws.OpcodeRow.rnd (x : RegIdx) (nn : Byte) : Laws.OpcodeRow.Statement (.rnd x nn) :=
  ⟨_, rfl, Laws.fixed_xnn _ _ _⟩

theorem Laws.OpcodeRow.drw (x : RegIdx) (y : RegIdx) (n : Nibble) : Laws.OpcodeRow.Statement (.drw x y n) :=
  ⟨_, rfl, Laws.fixed_xyn _ _ _ _⟩

theorem Laws.OpcodeRow.skp (x : RegIdx) : Laws.OpcodeRow.Statement (.skp x) :=
  ⟨_, rfl, Laws.fixed_x _ _ _⟩

theorem Laws.OpcodeRow.sknp (x : RegIdx) : Laws.OpcodeRow.Statement (.sknp x) :=
  ⟨_, rfl, Laws.fixed_x _ _ _⟩

theorem Laws.OpcodeRow.ldVxDt (x : RegIdx) : Laws.OpcodeRow.Statement (.ldVxDt x) :=
  ⟨_, rfl, Laws.fixed_x _ _ _⟩

theorem Laws.OpcodeRow.ldVxK (x : RegIdx) : Laws.OpcodeRow.Statement (.ldVxK x) :=
  ⟨_, rfl, Laws.fixed_x _ _ _⟩

theorem Laws.OpcodeRow.ldDtVx (x : RegIdx) : Laws.OpcodeRow.Statement (.ldDtVx x) :=
  ⟨_, rfl, Laws.fixed_x _ _ _⟩

theorem Laws.OpcodeRow.ldStVx (x : RegIdx) : Laws.OpcodeRow.Statement (.ldStVx x) :=
  ⟨_, rfl, Laws.fixed_x _ _ _⟩

theorem Laws.OpcodeRow.addIVx (x : RegIdx) : Laws.OpcodeRow.Statement (.addIVx x) :=
  ⟨_, rfl, Laws.fixed_x _ _ _⟩

theorem Laws.OpcodeRow.ldFVx (x : RegIdx) : Laws.OpcodeRow.Statement (.ldFVx x) :=
  ⟨_, rfl, Laws.fixed_x _ _ _⟩

theorem Laws.OpcodeRow.ldBVx (x : RegIdx) : Laws.OpcodeRow.Statement (.ldBVx x) :=
  ⟨_, rfl, Laws.fixed_x _ _ _⟩

theorem Laws.OpcodeRow.ldMemVx (x : RegIdx) : Laws.OpcodeRow.Statement (.ldMemVx x) :=
  ⟨_, rfl, Laws.fixed_x _ _ _⟩

theorem Laws.OpcodeRow.ldVxMem (x : RegIdx) : Laws.OpcodeRow.Statement (.ldVxMem x) :=
  ⟨_, rfl, Laws.fixed_x _ _ _⟩

end Sys2Proof
end

