-- ==== Sys2Proof/Laws/Step.lean ====
section
/-! SUPPORT. What one step can do, said once. -/

namespace Sys2Proof.Machine

/-- What an instruction's next state is: some state finished with a status, the entry state where it is an error. -/
theorem exec_next {i : Instr} {s t : State} (h : exec i s = .next t) :
    ∃ s' e, t = State.finish e s' ∧ (e ≠ .ok → s' = s) := by
  obtain ⟨s', e, h1, h2⟩ := exec_ends i s
  rw [h1] at h
  cases h
  exact ⟨s', e, rfl, h2⟩

/-- The three ways a step answers a next state: OutOfBounds, an executed instruction, an unrecognized word. -/
theorem step_next {s t : State} (h : step s = .next t) :
    s.faulted = false ∧
      ((s.fetch = none ∧ t = { s with status := .outOfBounds, faulted := true }) ∨
        (∃ w i, s.fetch = some w ∧ decodeWord w = .ok i ∧ exec i s.advance = .next t) ∨
        ∃ w e, s.fetch = some w ∧ decodeWord w = .error e ∧ t = s.advance.finish .ok) := by
  unfold step at h
  split at h
  · rename_i hm
    refine ⟨by simpa [State.mayStep] using hm, ?_⟩
    split at h
    · cases h; exact .inl ⟨‹_›, rfl⟩
    · split at h
      · exact .inr (.inl ⟨_, _, ‹_›, ‹_›, h⟩)
      · cases h; exact .inr (.inr ⟨_, _, ‹_›, ‹_›, rfl⟩)
  · cases h

/-- Nothing can be fetched: the step reports it. -/
theorem step_of_none {s : State} (hf : s.faulted = false) (h : s.fetch = none) : step s = stepOutOfBounds s := by
  rw [step, if_pos (by simp [State.mayStep, hf]), h]

/-- A word that decodes: the step executes the instruction after the fetch advance. -/
theorem step_of_ok {s : State} {w : Word} {i : Instr} (hf : s.faulted = false) (h : s.fetch = some w)
    (hd : decodeWord w = .ok i) : step s = exec i s.advance := by
  rw [step, if_pos (by simp [State.mayStep, hf]), h]
  simp only [hd]

/-- A word that does not: the step does nothing after the fetch advance. -/
theorem step_of_error {s : State} {w : Word} {e : DecodeError} (hf : s.faulted = false) (h : s.fetch = some w)
    (hd : decodeWord w = .error e) : step s = complete s.advance := by
  rw [step, if_pos (by simp [State.mayStep, hf]), h]
  simp only [hd, execUnrecognized]

/-- No step is taken while the mark is set. -/
theorem step_of_faulted {s : State} (hf : s.faulted = true) : step s = .fault .halted := by
  rw [step, if_neg (by simp [State.mayStep, hf])]

end Sys2Proof.Machine
end

