-- ==== Sys2Proof/Tests/Slice0.lean ====
section
/-! SUPPORT. Tests, their expected results from spec/95_test_vectors.md and the rules' own examples; smoke tests of
well-formedness; and for every statement with hypotheses a witness that meets them. An operation with an open parameter
is tested at each value of it. -/

namespace Sys2Proof.Tests

open Sys2Proof.Machine

/-- The state an outcome carries. -/
def after (r : Result) : Option State :=
  match r with
  | .next t => some t
  | .fault _ => none
  | .refused _ => none

/-- A reset machine about to execute at 0x202 (A = 0x200), with some registers set. -/
def start (vs : List (RegIdx × Byte)) : State :=
  vs.foldl (fun s p => s.setV p.1 p.2) (State.reset.setPc 0x202)

/-- A reset machine with the word w at 0x200. -/
def placed (w : Word) : State := State.reset.placeWord w

/-! ## Well-formedness: the reserved SYS operands are refused (R130, R87) -/

theorem test_wf_refuses_sys_cls : WellFormed (.sys 0x0E0) = false := by decide
theorem test_wf_refuses_sys_ret : WellFormed (.sys 0x0EE) = false := by decide
theorem test_wf_refuses_loose_band : wellFormedIn .loose (.sys 0x1E0) = false := by decide
theorem test_wf_accepts_strict_band : wellFormedIn .strict (.sys 0x1EE) = true := by decide

/-! ## Decode: words written out from R84 and R90, one per family and constructor -/

theorem test_decode_0 : decodeWord 0x00E0 = .ok .cls ∧ decodeWord 0x00EE = .ok .ret ∧
    decodeWord 0x0123 = .ok (.sys 0x123) ∧ decodeWord 0x00FE = .ok (.sys 0x0FE) := by decide
theorem test_decode_jumps : decodeWord 0x1246 = .ok (.jp 0x246) ∧ decodeWord 0x2300 = .ok (.call 0x300) ∧
    decodeWord 0xB300 = .ok (.jpV0 0x300) ∧ decodeWord 0xA300 = .ok (.ldI 0x300) := by decide
theorem test_decode_xnn : decodeWord 0x3241 = .ok (.seByte 2 0x41) ∧ decodeWord 0x4241 = .ok (.sneByte 2 0x41) ∧
    decodeWord 0x632A = .ok (.ldByte 3 0x2A) ∧ decodeWord 0x7002 = .ok (.addByte 0 2) ∧
    decodeWord 0xC40F = .ok (.rnd 4 0x0F) := by decide
theorem test_decode_xy : decodeWord 0x5120 = .ok (.seReg 1 2) ∧ decodeWord 0x9120 = .ok (.sneReg 1 2) := by decide
theorem test_decode_8 : decodeWord 0x8120 = .ok (.ldReg 1 2) ∧ decodeWord 0x8121 = .ok (.orReg 1 2) ∧
    decodeWord 0x8122 = .ok (.andReg 1 2) ∧ decodeWord 0x8123 = .ok (.xorReg 1 2) ∧
    decodeWord 0x8354 = .ok (.addReg 3 5) ∧ decodeWord 0x8125 = .ok (.subReg 1 2) ∧
    decodeWord 0x8126 = .ok (.shr 1 2) ∧ decodeWord 0x8127 = .ok (.subnReg 1 2) ∧
    decodeWord 0x812E = .ok (.shl 1 2) := by decide
theorem test_decode_d : decodeWord 0xD125 = .ok (.drw 1 2 5) := by decide
theorem test_decode_e : decodeWord 0xE59E = .ok (.skp 5) ∧ decodeWord 0xE5A1 = .ok (.sknp 5) := by decide
theorem test_decode_f : decodeWord 0xF507 = .ok (.ldVxDt 5) ∧ decodeWord 0xF30A = .ok (.ldVxK 3) ∧
    decodeWord 0xF515 = .ok (.ldDtVx 5) ∧ decodeWord 0xF518 = .ok (.ldStVx 5) ∧
    decodeWord 0xF21E = .ok (.addIVx 2) ∧ decodeWord 0xF329 = .ok (.ldFVx 3) ∧
    decodeWord 0xFA33 = .ok (.ldBVx 10) ∧ decodeWord 0xF255 = .ok (.ldMemVx 2) ∧
    decodeWord 0xF265 = .ok (.ldVxMem 2) := by decide

/-- Vectors 2.1: words no row matches. -/
theorem test_decode_unrecognized : decodeWord 0x8128 = .error (.unrecognized 0x8128) ∧
    decodeWord 0xE1FF = .error (.unrecognized 0xE1FF) ∧ decodeWord 0xF1FF = .error (.unrecognized 0xF1FF) := by decide
/-- Vectors 2.1: 5121 and 01E0 under both values of `P_DECODE_LOOSE`. -/
theorem test_decode_band : decodeIn .strict 0x5121 = .error (.unrecognized 0x5121) ∧
    decodeIn .loose 0x5121 = .ok (.seReg 1 2) ∧ decodeIn .strict 0x01E0 = .ok (.sys 0x1E0) ∧
    decodeIn .loose 0x01E0 = .ok .cls := by decide
theorem test_decode_truncated : decode [0x12] = .error .truncated ∧ decode [] = .error .truncated := by decide
/-- R90's worked example: `ADD V3, V5` is the bytes 83 54. -/
theorem test_encode_bytes : encodeBytes (.addReg 3 5) = [0x83, 0x54] := by decide
theorem test_table_word : decodeTableWord 16 0xD125 = some (.drw 1 2 5) := by decide

/-! ## The step (vectors 2.1, E12) -/

theorem test_step_runs_placed_word :
    (after (step (placed 0x632A))).map (fun t => (t.v 3, t.pc)) = some (0x2A, 0x202) := by decide
/-- An odd PC is fetched as it is (R66). -/
theorem test_step_odd_pc :
    (after (step ((State.reset.setPc 0x201).placeWord 0x6123))).map (fun t => (t.v 1, t.pc)) = some (0x23, 0x203) := by
  decide
/-- Zero memory is SYS 000, a no-op (R130). -/
theorem test_step_from_reset : (after (step State.reset)).map (fun t => (t.pc, t.status)) = some (0x202, .ok) := by
  decide
theorem test_step_unrecognized : (after (step (placed 0xE1FF))).map (fun t => (t.pc, t.status)) = some (0x202, .ok) := by
  decide
theorem test_step_out_of_bounds :
    (after (step (State.reset.setPc 0xFFF))).map (fun t => (t.pc, t.status, t.faulted)) =
      some (0xFFF, .outOfBounds, true) := by decide
theorem test_step_top_of_memory :
    (after (step ((State.reset.setPc 0xFFE).placeWord 0x00E0))).map (fun t => (t.pc, t.needsRedraw)) =
      some (0x1000, true) := by decide

/-! ## Control flow (vectors 2.2, E4, E6) -/

theorem test_call : (after (exec (.call 0x300) (start []))).map (fun t => (t.pc, t.sp, t.stack[0])) =
    some (0x300, 1, 0x202) := by decide
theorem test_call_overflow :
    (after (exec (.call 0x400) ((start []).setStack (start []).stack 16))).map
      (fun t => (t.pc, t.sp, t.status, t.faulted)) = some (0x202, 16, .stackOverflow, true) := by decide
theorem test_ret : (after (exec .ret ((start []).setStack (Vector.replicate 16 0x20A) 2))).map
    (fun t => (t.pc, t.sp)) = some (0x20A, 1) := by decide
theorem test_ret_empty : (after (exec .ret (start []))).map (fun t => (t.pc, t.sp, t.status)) =
    some (0x202, 0, .stackEmpty) := by decide
theorem test_jp : (after (exec (.jp 0xFFE) (start []))).map (·.pc) = some 0xFFE := by decide
theorem test_jpV0 : (after (exec (.jpV0 0xFFF) (start [(0, 0xFF)]))).map (·.pc) = some 0x10FE := by decide
theorem test_sys : (after (exec (.sys 0x123) (start []))).map (·.pc) = some 0x202 := by decide
theorem test_seByte : (after (exec (.seByte 5 0x20) (start [(5, 0x20)]))).map (·.pc) = some 0x204 := by decide
theorem test_seByte_not : (after (exec (.seByte 5 0x20) (start [(5, 0x21)]))).map (·.pc) = some 0x202 := by decide
theorem test_sneByte : (after (exec (.sneByte 5 0x20) (start [(5, 0x21)]))).map (·.pc) = some 0x204 := by decide
theorem test_seReg_same : (after (exec (.seReg 3 3) (start [(3, 9)]))).map (·.pc) = some 0x204 := by decide
theorem test_sneReg_same : (after (exec (.sneReg 3 3) (start [(3, 9)]))).map (·.pc) = some 0x202 := by decide
theorem test_skp_key15 :
    (after (exec (.skp 4) ((start [(4, 15)]).setKey 15 true))).map (·.pc) = some 0x204 := by decide
theorem test_skp_out_of_range :
    (after (exec (.skp 4) ((start [(4, 16)]).setKeys (Vector.replicate 16 true)))).map (·.pc) = some 0x202 := by decide
theorem test_sknp_out_of_range : (after (exec (.sknp 4) (start [(4, 16)]))).map (·.pc) = some 0x202 := by decide
theorem test_sknp : (after (exec (.sknp 4) (start [(4, 3)]))).map (·.pc) = some 0x204 := by decide

/-! ## ALU (vectors 2.3, E1-E3) -/

theorem test_addByte_wraps :
    (after (exec (.addByte 3 1) (start [(3, 0xFF), (15, 0x55)]))).map (fun t => (t.v 3, t.v 15)) = some (0, 0x55) := by
  decide
theorem test_addByte_vf : (after (exec (.addByte 15 1) (start [(15, 0xFF)]))).map (·.v 15) = some 0 := by decide
theorem test_ldByte : (after (exec (.ldByte 3 0x2A) (start []))).map (·.v 3) = some 0x2A := by decide
theorem test_ldReg_standard : ((start [(2, 0x42)]).moveUnlisted .standard 1 2).v 1 = 0x42 := by decide
theorem test_ldReg_noOp : ((start [(2, 0x42)]).moveUnlisted .noOp 1 2).v 1 = 0 := by decide
theorem test_logic :
    (after (exec (.orReg 1 2) (start [(1, 0xF0), (2, 0x3C), (15, 0x77)]))).map (fun t => (t.v 1, t.v 15)) =
      some (0xFC, 0x77) ∧
    (after (exec (.andReg 1 2) (start [(1, 0xF0), (2, 0x3C), (15, 0x77)]))).map (fun t => (t.v 1, t.v 15)) =
      some (0x30, 0x77) ∧
    (after (exec (.xorReg 1 2) (start [(1, 0xF0), (2, 0x3C), (15, 0x77)]))).map (fun t => (t.v 1, t.v 15)) =
      some (0xCC, 0x77) := by decide
theorem test_addReg_carry :
    (after (exec (.addReg 0 1) (start [(0, 0xFF), (1, 2)]))).map (fun t => (t.v 0, t.v 15)) = some (1, 1) := by decide
/-- The old VF is the operand (vector 81F4). -/
theorem test_addReg_reads_old_vf :
    (after (exec (.addReg 1 15) (start [(1, 0x10), (15, 1)]))).map (fun t => (t.v 1, t.v 15)) = some (0x11, 0) := by
  decide
/-- Vector 8F14 under both values of `P_VF_LAST`. -/
theorem test_addReg_into_vf :
    (State.writeResultAndFlag true 15 (addCarry 0x10 0x20) (start [])).v 15 = 0 ∧
    (State.writeResultAndFlag false 15 (addCarry 0x10 0x20) (start [])).v 15 = 0x30 := by decide
theorem test_subReg :
    (after (exec (.subReg 1 2) (start [(1, 7), (2, 5)]))).map (fun t => (t.v 1, t.v 15)) = some (2, 1) ∧
    (after (exec (.subReg 1 2) (start [(1, 5), (2, 5)]))).map (fun t => (t.v 1, t.v 15)) = some (0, 0) ∧
    (after (exec (.subReg 1 2) (start [(1, 5), (2, 7)]))).map (fun t => (t.v 1, t.v 15)) = some (0xFE, 0) := by decide
theorem test_subnReg :
    (after (exec (.subnReg 1 2) (start [(1, 5), (2, 7)]))).map (fun t => (t.v 1, t.v 15)) = some (2, 1) ∧
    (after (exec (.subnReg 1 2) (start [(1, 7), (2, 5)]))).map (fun t => (t.v 1, t.v 15)) = some (0xFE, 0) := by decide
/-- E3 and vector 2.3 under both dialects and both values of `P_LEGACY_SHIFT_VY`. -/
theorem test_shr :
    (fun t : State => (t.v 1, t.v 2, t.v 15)) ((start [(2, 3)]).shiftWith .legacy false true shiftRight 1 2) = (1, 3, 1) ∧
    (fun t : State => (t.v 1, t.v 2, t.v 15)) ((start [(1, 0xFF), (2, 4)]).shiftWith .legacy true true shiftRight 1 2) =
      (2, 2, 0) ∧
    (fun t : State => (t.v 1, t.v 2, t.v 15)) ((start [(1, 0xFF), (2, 4)]).shiftWith .modern true true shiftRight 1 2) =
      (0x7F, 4, 1) := by decide
theorem test_shl :
    (fun t : State => (t.v 1, t.v 2, t.v 15)) ((start [(2, 0xC0)]).shiftWith .legacy true false shiftLeft 1 2) =
      (0x80, 0x80, 1) ∧
    (fun t : State => (t.v 1, t.v 15)) ((start [(1, 0x80)]).shiftWith .modern false false shiftLeft 1 1) = (0, 1) := by
  decide
/-- nn = 0 gives 0 whatever is drawn (R163). -/
theorem test_rnd_masked : (after (exec (.rnd 5 0) (start []))).map (·.v 5) = some 0 := by
  simp [exec, execRnd, complete_eq, after, State.v, State.setV, State.countDraw]

/-! ## Index register and memory (vectors 2.4, E9) -/

theorem test_ldI : (after (exec (.ldI 0xFFF) (start []))).map (·.i) = some 0xFFF := by decide
theorem test_addIVx_wraps :
    (after (exec (.addIVx 1) ((start [(1, 1)]).setI 0xFFFF))).map (fun t => (t.i, t.v 15)) = some (0, 0) := by decide
theorem test_ldFVx_unmasked : (after (exec (.ldFVx 0) (start [(0, 0xFF)]))).map (·.i) = some 0x4FB := by decide
theorem test_bcd :
    (after (exec (.ldBVx 1) ((start [(1, 254)]).setI 0x300))).map (fun t => t.mem.readBytes 0x300 3) =
      some [2, 5, 4] := by decide
theorem test_bcd_error :
    (after (exec (.ldBVx 1) ((start [(1, 254)]).setI 4094))).map (fun t => (t.mem, t.status)) =
      some ([], .illegalMemoryAccess) := by decide
theorem test_store_top :
    (after (exec (.ldMemVx 15) ((start [(0, 7), (15, 9)]).setI 4080))).map
      (fun t => (t.mem.read 4080, t.mem.read 4095, t.status)) = some (7, 9, .ok) := by decide
theorem test_store_error :
    (after (exec (.ldMemVx 15) ((start [(0, 7)]).setI 4081))).map (fun t => (t.mem, t.i, t.status)) =
      some ([], 4081, .illegalMemoryAccess) := by decide
theorem test_load :
    (after (exec (.ldVxMem 2) (((start [(3, 8)]).setMem [(0x300, 1), (0x301, 2), (0x302, 3)]).setI 0x300))).map
      (fun t => (t.v 0, t.v 1, t.v 2, t.v 3)) = some (1, 2, 3, 8) := by decide
theorem test_index_after_block : indexAfterBlock .legacy 0x300 2 = 0x303 ∧ indexAfterBlock .modern 0x300 2 = 0x300 := by
  decide

/-! ## Display (vectors 2.5, E7) -/

/-- The columns lit in row r. -/
def litColumns (d : Display) (r : Fin 32) : List Nat :=
  (List.range 64).filter fun c => if h : c < 64 then d.pixel r ⟨c, h⟩ else false

theorem test_draw_wrap : litColumns (blit true .anyHit 62 0 [0xFF] Display.blank).disp 0 = [0, 1, 2, 3, 4, 5, 62, 63] := by
  decide
theorem test_draw_clip : litColumns (blit false .anyHit 62 0 [0xFF] Display.blank).disp 0 = [62, 63] := by decide
/-- E7: drawing twice clears, and the second draw collides under every rule. -/
theorem test_draw_twice : ∀ rule ∈ [CollisionRule.anyHit, .lastSetBit, .lastCell],
    (blit false rule 0 0 [0xFF] Display.blank).coll.flag rule = false ∧
    (blit false rule 0 0 [0xFF] (blit false rule 0 0 [0xFF] Display.blank).disp).coll.flag rule = true ∧
    litColumns (blit false rule 0 0 [0xFF] (blit false rule 0 0 [0xFF] Display.blank).disp).disp 0 = [] := by decide
/-- The vectors that tell the three collision rules apart: pixel (0, 0) lit, sprites C0, 80. -/
theorem test_collision_rules :
    ([CollisionRule.anyHit, .lastSetBit, .lastCell].map fun rule =>
      (blit false rule 0 0 [0xC0] (Display.blank.xorPixel 0 0 true)).coll.flag rule) = [true, false, false] ∧
    ([CollisionRule.anyHit, .lastSetBit, .lastCell].map fun rule =>
      (blit false rule 0 0 [0x80] (Display.blank.xorPixel 0 0 true)).coll.flag rule) = [true, true, false] := by decide
/-- Column 63 is drawn, the rest of the row is clipped: VF = 1 under all three rules. -/
theorem test_collision_clipped : ∀ rule ∈ [CollisionRule.anyHit, .lastSetBit, .lastCell],
    (blit false rule 60 0 [0x11] (Display.blank.xorPixel 0 63 true)).coll.flag rule = true := by decide
/-- DXY0 draws nothing, clears VF and sets both flags, at any PC and with I at the very end of memory. -/
theorem test_draw_empty :
    (after (exec (.drw 1 2 0) ((start [(15, 0x33)]).setI 4096))).map
      (fun t => (t.needsRedraw, t.frameNonblank, t.status)) = some (true, true, .ok) := by decide
theorem test_draw_error :
    (after (exec (.drw 0 1 2) ((start [(15, 0x33)]).setI 4095))).map
      (fun t => (t.v 15, t.needsRedraw, t.status)) = some (0x33, false, .illegalMemoryAccess) := by decide
theorem test_cls :
    (after (exec .cls ((start []).setDisp (Display.blank.xorPixel 3 4 true)))).map
      (fun t => (t.disp.pixel 3 4, t.needsRedraw, t.frameNonblank)) = some (false, true, false) := by decide
/-- The default font's glyph 3 has 0x10 in its second row (R281, vector 2.7). -/
theorem test_default_font : defaultFont[0x10] = 0x10 ∧ defaultFont[79] = 0x80 := by decide

/-! ## Timers, keys and the host (vectors 2.6, 2.7, E8, E10) -/

theorem test_ldVxDt : (after (exec (.ldVxDt 5) ((start []).setDt 0x3C))).map (·.v 5) = some 0x3C := by decide
theorem test_ldDtVx : (after (exec (.ldDtVx 1) (start [(1, 0x3C)]))).map (·.dt) = some 0x3C := by decide
theorem test_ldStVx : (after (exec (.ldStVx 5) (start [(5, 7)]))).map (fun t => (t.st, t.sndDb)) = some (7, none) := by
  decide
theorem test_wait_key_lowest :
    (fun t : State => (t.v 3, t.pc)) ((((start []).setKey 9 true).setKey 4 true).waitKey .standard 3) = (4, 0x202) := by
  decide
theorem test_wait_key_none :
    ((start []).waitKey .standard 3).pc = 0x200 ∧ ((start []).waitKey .noOp 3).pc = 0x202 := by decide
theorem test_tick_idle :
    (fun p : Option Signal × State => (p.1, p.2.dt, p.2.st, p.2.sndDb)) ((start []).tickWith 3 true) =
      (none, 0, 0, none) := by decide
theorem test_tick_last :
    (fun p : Option Signal × State => (p.1, p.2.st, p.2.sndDb)) (((start []).setSt 1).tickWith 3 true) =
      (some .play, 0, none) := by decide
theorem test_tick_silent :
    (((start []).setSt 2).tickWith 3 false).1 = none ∧ (((start []).setSt 2).tickWith 3 false).2.st = 1 := by decide
/-- ST = 5, K = 3: the tick after a signal is silent, and the window reopens at 3. -/
theorem test_tick_window :
    ((((start []).setSt 4).setSndDb (some 1)).tickWith 3 true).1 = none ∧
    ((((start []).setSt 2).setSndDb (some 3)).tickWith 3 true).1 = some .play := by decide
theorem test_reset_preserving :
    (State.hostReset true ((start []).setMem [(0x300, 0x12)])).mem.read 0x300 = 0x12 ∧
    (State.hostReset false ((start []).setMem [(0x300, 0x12)])).mem.read 0x300 = 0 := by decide
theorem test_reset_keeps_keys : (State.hostReset false ((start []).setKey 2 true)).keys[2] = true := by decide
theorem test_reset_keeps_draws : (State.hostReset false (start []).countDraw).draws = 1 := by decide
theorem test_loadProgram : (State.loadProgram [0x22, 0x00] ((start [(0, 3)]).setPc 0x250)).map
    (fun t => (t.mem, t.pc, t.v 0)) = some ([(0x200, 0x22)], 0x250, 3) := by decide
theorem test_load_too_large (bs : List Byte) (h : bs.length = 3585) : (start []).loadProgram bs = none := by
  simp [State.loadProgram, h, maxProgram]

/-! ## Witnesses: states and operands that meet each statement's hypotheses, clause by clause, at the edges -/

theorem witness_DecodeOfEncodeIsIdentity :
    WellFormed (.sys 0x123) = true ∧ WellFormed (.drw 15 15 15) = true := by decide
theorem witness_DecoderFollowsOpcodeMap :
    (∃ row, opcodeMap[0]? = some row ∧ (0x00E0#16 : Word) &&& row.2 = row.1) ∧
    ∃ row, opcodeMap[2]? = some row ∧ (0x00E0#16 : Word) &&& row.2 = row.1 :=
  ⟨⟨_, rfl, by decide⟩, ⟨_, rfl, by decide⟩⟩
theorem witness_BandDecodesByParameter :
    inBand 0x5120 = false ∧ inBand 0x00E0 = false ∧ (1#4 : Nibble) ≠ 0#4 ∧ (15#4 : Nibble) ≠ 0#4 := by decide
theorem witness_UnrecognizedWordsAreNoOps :
    fieldP 0x0123 = 0#4 ∧ (0x0123#16 : Word) ≠ 0x00E0#16 ∧ (0x0123#16 : Word) ≠ 0x00EE#16 ∧
    (placed 0x8128).faulted = false ∧ (placed 0x8128).fetch = some 0x8128 ∧
    decodeWord 0x8128 = .error (.unrecognized 0x8128) ∧
    (placed 0x0123).fetch = some 0x0123 ∧ decodeWord 0x0123 = .ok (.sys 0x123) := by decide
theorem witness_StepRunsDecodedInstruction :
    (placed 0x6123).faulted = false ∧ 0x200 ≤ (placed 0x6123).pc.toNat ∧ (placed 0x6123).pc.toNat ≤ 4094 ∧
    decode [(placed 0x6123).mem.read (placed 0x6123).pc.toNat, (placed 0x6123).mem.read ((placed 0x6123).pc.toNat + 1)] =
      .ok (.ldByte 1 0x23, []) := by decide
theorem witness_FetchIsBigEndian :
    (0x200 ≤ (State.reset.setPc 0x200).pc.toNat ∧ (State.reset.setPc 0x200).pc.toNat ≤ 4094) ∧
    0x200 ≤ (State.reset.setPc 0xFFE).pc.toNat ∧ (State.reset.setPc 0xFFE).pc.toNat ≤ 4094 := by decide
theorem witness_OutOfBoundsStepChangesNothingElse :
    (State.reset.setPc 0x1FF).pc.toNat < 0x200 ∧ 4094 < (State.reset.setPc 0xFFF).pc.toNat ∧
    (State.reset.setPc 0x1FF).faulted = false ∧ (State.reset.setPc 0xFFF).faulted = false := by decide
theorem witness_ErrorMarkIsStickyAndHalts :
    (∃ t, State.reset.faulted = false ∧ step State.reset = .next t) ∧
    (State.reset.finish .stackEmpty).faulted = true ∧
    (∃ r t, transact (.reset true) (State.reset.finish .stackEmpty) = .next (r, t)) ∧
    ∃ r t, transact .tickTimers (State.reset.finish .stackEmpty) = .next (r, t) :=
  ⟨⟨_, rfl, rfl⟩, rfl, ⟨_, _, rfl⟩, ⟨_, _, rfl⟩⟩
theorem witness_EveryStepReturnsAFreshStatus : State.reset.faulted = false := rfl
theorem witness_ErrorCausesAndPrecision :
    (∃ t, exec .ret (start []) = .next t ∧ t.status ≠ .ok) ∧
    (∃ t, step (State.reset.setPc 0x1FF) = .next t ∧ t.status = .outOfBounds) ∧
    ∃ t, step (placed 0x00EE) = .next t ∧ t.status ≠ .ok ∧ t.status ≠ .outOfBounds :=
  ⟨⟨_, rfl, by decide⟩, ⟨_, rfl, rfl⟩, ⟨_, rfl, by decide, by decide⟩⟩
theorem witness_PcAfterEachInstruction : ∃ t, exec (.jp 0x246) (start []) = .next t := ⟨_, rfl⟩
theorem witness_ReturnPopsOrReportsEmpty :
    0 < ((start []).setStack (start []).stack 1).sp.val ∧ 0 < ((start []).setStack (start []).stack 16).sp.val ∧
    (start []).sp.val = 0 := by decide
theorem witness_CallPushesOrReportsOverflow :
    (start []).sp.val < 16 ∧ ((start []).setStack (start []).stack 15).sp.val < 16 ∧
    ((start []).setStack (start []).stack 16).sp.val = 16 := by decide
theorem witness_CallThenReturnRestoresPc :
    (start []).sp.val < 16 ∧ ∃ t u : State, exec (.call 0x300) (start []) = .next t ∧ u.stack = t.stack ∧ u.sp = t.sp :=
  ⟨by decide, _, _, rfl, rfl, rfl⟩
theorem witness_NestedCallsFitSixteenAndUnwind :
    (∃ t, callChain [0x300, 0x400] (start []) = some t) ∧
    (callChain [0x300] ((start []).setStack (start []).stack 16)).isSome = false := ⟨⟨_, rfl⟩, by decide⟩
theorem witness_KeySkips :
    ((start [(4, 15)]).v 4).toNat = (15 : Fin 16).val ∧ ((start []).v 4).toNat = (0 : Fin 16).val ∧
    16 ≤ ((start [(4, 16)]).v 4).toNat := by decide
theorem witness_SysIsNoOp :
    fieldP 0x0123 = 0#4 ∧ (0x0123#16 : Word) ≠ 0x00E0#16 ∧ (0x0123#16 : Word) ≠ 0x00EE#16 ∧ inBand 0x0123 = false := by
  decide
theorem witness_FlagDestinationClauses : (1#4 : RegIdx) ≠ vF ∧ (15#4 : RegIdx) = vF ∧ (2#4 : RegIdx) ≠ 1#4 ∧
    (2#4 : RegIdx) ≠ vF := by decide
theorem witness_BcdStoresThreeDigits :
    Memory.wf ((start []).setI 4093).mem ∧ ((start []).setI 4093).i.toNat + 3 ≤ memSize ∧
    memSize < ((start []).setI 4094).i.toNat + 3 := by decide
theorem witness_BlockStoreAndLoad :
    Memory.wf ((start []).setI 4080).mem ∧ ((start []).setI 4080).i.toNat + ((15#4 : RegIdx).toNat + 1) ≤ memSize ∧
    ((start []).setI 4095).i.toNat + ((0#4 : RegIdx).toNat + 1) ≤ memSize ∧
    memSize < ((start []).setI 4081).i.toNat + ((15#4 : RegIdx).toNat + 1) := by decide
theorem witness_BlockLoadUndoesBlockStore :
    ∃ s t u : State, Memory.wf s.mem ∧ exec (.ldMemVx 2) s = .next t ∧ t.status = .ok ∧ u.mem = t.mem ∧ u.i = s.i := by
  let s := (start [(0, 1)]).setI 0x300
  let t := ((s.setMem (s.mem.writeBytes 0x300 (s.blockRegs 2))).setI (indexAfterBlock dialect s.i 2)).finish .ok
  exact ⟨s, t, t.setI s.i, by decide, rfl, rfl, rfl, rfl⟩
theorem witness_StoreIsSeenByNextFetch :
    ∃ s t : State, Memory.wf s.mem ∧ exec (.ldMemVx 2) s = .next t ∧ t.status = .ok ∧ (0#4 : RegIdx) < 2#4 ∧
      t.pc.toNat = s.i.toNat + (0#4 : RegIdx).toNat ∧ 0x200 ≤ t.pc.toNat ∧ t.pc.toNat ≤ 4094 := by
  let s := (start [(0, 1)]).setI 0x202
  let t := ((s.setMem (s.mem.writeBytes 0x202 (s.blockRegs 2))).setI (indexAfterBlock dialect s.i 2)).finish .ok
  exact ⟨s, t, by decide, rfl, rfl, by decide, rfl, by decide, by decide⟩
theorem witness_DrawXorsSpriteAndReportsCollision :
    ((start []).setI 4081).i.toNat + (15#4 : Nibble).toNat ≤ memSize ∧
    ((start []).setI 4096).i.toNat + (0#4 : Nibble).toNat ≤ memSize ∧
    memSize < ((start []).setI 4082).i.toNat + (15#4 : Nibble).toNat := by decide
theorem witness_DrawingTwiceRestoresDisplay :
    ∃ s t u v : State, exec (.drw 0 1 1) s = .next t ∧ t.status = .ok ∧ u.disp = t.disp ∧ u.mem = s.mem ∧ u.i = s.i ∧
      u.v 0 = s.v 0 ∧ u.v 1 = s.v 1 ∧ exec (.drw 0 1 1) u = .next v := by
  let s := ((start []).setMem [(0x300, 0xFF)]).setI 0x300
  exact ⟨s, _, s.setDisp (blit screenWrap collision 0 0 [0xFF] s.disp).disp, _, rfl, rfl, rfl, rfl, rfl, rfl, rfl, rfl⟩
theorem witness_WaitForKey :
    (((start []).setKey 9 true).setKey 4 true).keys[4] = true ∧
    (∀ j : Fin 16, j < 4 → (((start []).setKey 9 true).setKey 4 true).keys[j.val] = false) ∧
    ∀ k : Fin 16, (start []).keys[k.val] = false := by decide
theorem witness_OnlyFlagInstructionsWriteVf : ∃ t, exec (.ldByte 15 7) (start []) = .next t ∧ t.v vF ≠ (start []).v vF :=
  ⟨_, rfl, by decide⟩
theorem witness_EachPieceOfStateHasItsWriters :
    ∃ t, exec (.ldDtVx 1) (start [(1, 5)]) = .next t ∧ t.dt ≠ (start [(1, 5)]).dt := ⟨_, rfl, by decide⟩
theorem witness_UnreadStateHasNoInfluence :
    SameButUnread State.reset (State.reset.setSt 9) ∧ State.reset.faulted = (State.reset.setSt 9).faulted ∧
    (∃ s', step State.reset = .next s') ∧ step (State.reset.finish .stackEmpty) = .fault .halted :=
  ⟨rfl, rfl, ⟨_, rfl⟩, rfl⟩
theorem witness_MemoryIsDeterminedByItsBytes : Memory.wf [(0x300, 1), (0x301, 2)] := by decide
theorem witness_Invariant : State.reset.Inv ∧ (∃ t, step State.reset = .next t) ∧
    ∃ r t, transact (.loadProgram [0x12]) State.reset = .next (r, t) := by
  refine ⟨⟨Memory.wf_nil, ?_, ⟨by decide, by decide⟩, ?_⟩, ⟨_, rfl⟩, ⟨_, _, rfl⟩⟩
  · simp [State.markAgrees, State.reset]
  · intro k h; cases h
theorem witness_Reachable : Reachable State.reset := .reset
theorem witness_HostResetReinitializes : Memory.wf (State.reset.setMem [(0x300, 1)]).mem := by decide
theorem witness_LoadProgramCopiesOrRefuses :
    Memory.wf State.reset.mem ∧ 3584 < (List.replicate 3585 (1 : Byte)).length ∧
    (List.replicate 3584 (1 : Byte)).length ≤ 3584 := by
  simp only [List.length_replicate]
  exact ⟨Memory.wf_nil, by decide, by decide⟩
/-- A program that keeps rewriting ST: `LD ST, V0` and a jump back to it, with V0 = 0xFF, the debounce state d. -/
def rearming (d : Option Nat) : State :=
  { State.reset with
    mem := [(0x200, 0xF0), (0x201, 0x18), (0x202, 0x12)], regs := State.reset.regs.set 0 0xFF, st := 0xFF, sndDb := d }

/-- The two steps of that program after a tick bring it back, the debounce state kept. -/
theorem rearming_steps {n : Nat} {s : State} (d : Option Nat) (h : TicksApart n s ((rearming d).setSt 0xFE)) :
    TicksApart n s (rearming d) := by
  have fetchStore : ((rearming d).setSt 0xFE).fetch = some 0xF018 := by
    show (rearming none).fetch = _
    decide
  have fetchJump : ((rearming d).setPc 0x202).fetch = some 0x1200 := by
    show ((rearming none).setPc 0x202).fetch = _
    decide
  have store : transact .step ((rearming d).setSt 0xFE) = .next (.status .ok, (rearming d).setPc 0x202) := by
    rw [transact, hostStep, step_of_ok rfl fetchStore (by decide : decodeWord 0xF018 = .ok (.ldStVx 0))]
    rfl
  have jump : transact .step ((rearming d).setPc 0x202) = .next (.status .ok, rearming d) := by
    rw [transact, hostStep, step_of_ok rfl fetchJump (by decide : decodeWord 0x1200 = .ok (.jp 0x200))]
    rfl
  exact .other (.other h (by decide) (by intro p hp; cases hp) store) (by decide) (by intro p hp; cases hp) jump

/-- A tick of it. -/
theorem rearming_tick (d : Option Nat) :
    (rearming d).tickTimers.2 =
      (rearming (if debounceOpen soundDebounce d then some 1 else d.map (· + 1))).setSt 0xFE := by
  have hst : (rearming d).st = 0xFF := rfl
  rw [State.tickTimers, State.tickWith_of_pos _ _ (by rw [hst]; decide), hst, debounceAfter_of_ne (by decide)]
  rfl

/-- A tick of it leaves ST above 0. -/
theorem rearming_tick_st (d : Option Nat) : (rearming d).tickTimers.2.st ≠ 0 := by
  rw [rearming_tick]
  show (0xFE#8 : Byte) ≠ 0
  decide

/-- While the window is closed each round of tick and two steps counts one more. -/
theorem rearming_rounds : ∀ n, n < soundDebounce → TicksApart n (rearming none).tickTimers.2 (rearming (some (n + 1)))
  | 0, _ => by
    refine rearming_steps _ ?_
    rw [rearming_tick]
    exact .start _
  | n + 1, h => by
    have closed : debounceOpen soundDebounce (some (n + 1)) = false := by simpa [debounceOpen] using h
    have round := TicksApart.tick (rearming_rounds n (by omega)) (rearming_tick_st _)
    rw [rearming_tick (some (n + 1)), closed] at round
    exact rearming_steps _ round

/-- Where sound is enabled, that program's signals are exactly K ticks apart, ST being rewritten all the while. -/
theorem witness_AtMostOneSignalPerWindow (h : soundEnabled = true) :
    ∃ (n : Nat) (s t : State), s.tickSignals ∧ s.tickTimers.2.st ≠ 0 ∧ TicksApart n s.tickTimers.2 t ∧ t.tickSignals ∧
      n + 1 = soundDebounce := by
  have signals : ∀ d, debounceOpen soundDebounce d = true → (rearming d).tickSignals := fun d hd => by
    rw [State.tickSignals, State.tickTimers, State.tickWith_of_pos _ _ (show 0 < (0xFF#8 : Byte).toNat by decide)]
    simp [rearming, hd, h]
  exact ⟨soundDebounce - 1, rearming none, rearming (some (soundDebounce - 1 + 1)), signals _ rfl,
    rearming_tick_st _, rearming_rounds _ (by simp [soundDebounce]),
    signals _ (by simp [debounceOpen, soundDebounce]), by simp [soundDebounce]⟩
theorem witness_FirstTickSignals : 0 < (rearming none).st.toNat ∧ (rearming none).sndDb = none := by decide
theorem witness_SelfJumpIsAnEnd : (placed 0x1200).atSelfJump := ⟨rfl, rfl⟩

end Sys2Proof.Tests
end

section
/-! The frame of every instruction (10_state.md R42): the pieces of state it may write, as a table, and the proof that
it writes no other. -/

namespace Sys2Proof.Machine

/-- The pieces of state of R42, and the model's draw counter, but for the status, which every step overwrites. -/
inductive Piece where
  | regs | i | pc | sp | stack | dt | st | sndDb | mem | disp | needsRedraw | frameNonblank | keys | faulted | draws
  deriving DecidableEq

/-- The two states agree on this piece. -/
def Piece.Same (s t : State) : Piece → Prop
  | .regs => t.regs = s.regs
  | .i => t.i = s.i
  | .pc => t.pc = s.pc
  | .sp => t.sp = s.sp
  | .stack => t.stack = s.stack
  | .dt => t.dt = s.dt
  | .st => t.st = s.st
  | .sndDb => t.sndDb = s.sndDb
  | .mem => t.mem = s.mem
  | .disp => t.disp = s.disp
  | .needsRedraw => t.needsRedraw = s.needsRedraw
  | .frameNonblank => t.frameNonblank = s.frameNonblank
  | .keys => t.keys = s.keys
  | .faulted => t.faulted = s.faulted
  | .draws => t.draws = s.draws

/-- The two states agree on every piece but these. -/
def SameBut (ps : List Piece) (s t : State) : Prop := ∀ p, p ∉ ps → p.Same s t

/-- The pieces an instruction may write before it sets the status and the mark. -/
def writtenBy : Instr → List Piece
  | .sys _ => []
  | .jp _ | .jpV0 _ | .seByte _ _ | .sneByte _ _ | .seReg _ _ | .sneReg _ _ | .skp _ | .sknp _ => [.pc]
  | .call _ => [.stack, .sp, .pc]
  | .ret => [.sp, .pc]
  | .ldByte _ _ | .addByte _ _ | .ldReg _ _ | .orReg _ _ | .andReg _ _ | .xorReg _ _ | .addReg _ _ | .subReg _ _
  | .shr _ _ | .subnReg _ _ | .shl _ _ | .ldVxDt _ => [.regs]
  | .rnd _ _ => [.regs, .draws]
  | .ldVxK _ => [.regs, .pc]
  | .ldI _ | .addIVx _ | .ldFVx _ => [.i]
  | .ldBVx _ => [.mem]
  | .ldMemVx _ => [.mem, .i]
  | .ldVxMem _ => [.regs, .i]
  | .ldDtVx _ => [.dt]
  | .ldStVx _ => [.st]
  | .cls => [.disp, .needsRedraw]
  | .drw _ _ _ => [.disp, .regs, .needsRedraw, .frameNonblank]

/-! ## Composing frames -/

theorem SameBut.refl (ps : List Piece) (s : State) : SameBut ps s s := by
  intro p _
  cases p <;> rfl

theorem SameBut.mono {ps qs : List Piece} {s t : State} (h : SameBut ps s t) (hsub : ps ⊆ qs) : SameBut qs s t :=
  fun p hp => h p fun hmem => hp (hsub hmem)

theorem Piece.Same.trans {p : Piece} {s t u : State} (h : p.Same s t) (h' : p.Same t u) : p.Same s u := by
  cases p <;> exact Eq.trans h' h

/-- What two updates in a row may write. -/
theorem SameBut.andThen {ps qs : List Piece} {s t u : State} (h : SameBut ps s t) (h' : SameBut qs t u) :
    SameBut (ps ++ qs) s u :=
  fun p hp => (h p fun hmem => hp (List.mem_append_left _ hmem)).trans
    (h' p fun hmem => hp (List.mem_append_right _ hmem))

/-! ## The frame of each operation -/

theorem sameBut_regs {s t : State} (h : t = { s with regs := t.regs }) : SameBut [.regs] s t := by
  intro p hp
  rw [h]
  cases p
  case regs => simp at hp
  all_goals rfl

section
variable (s : State)

theorem sameBut_setV (x : RegIdx) (b : Byte) : SameBut [.regs] s (s.setV x b) := sameBut_regs rfl

theorem sameBut_setI (w : Word) : SameBut [.i] s (s.setI w) :=
  fun p hp => by cases p <;> simp_all [Piece.Same]

theorem sameBut_setPc (w : Word) : SameBut [.pc] s (s.setPc w) :=
  fun p hp => by cases p <;> simp_all [Piece.Same]

theorem sameBut_setDt (b : Byte) : SameBut [.dt] s (s.setDt b) :=
  fun p hp => by cases p <;> simp_all [Piece.Same]

theorem sameBut_setSt (b : Byte) : SameBut [.st] s (s.setSt b) :=
  fun p hp => by cases p <;> simp_all [Piece.Same]

theorem sameBut_setMem (m : Memory) : SameBut [.mem] s (s.setMem m) :=
  fun p hp => by cases p <;> simp_all [Piece.Same]

theorem sameBut_setStack (k : Vector Word 16) (n : Fin 17) : SameBut [.stack, .sp] s (s.setStack k n) :=
  fun p hp => by cases p <;> simp_all [Piece.Same]

/-- A pop moves SP alone: the entry stays in the array (10_state.md R28). -/
theorem sameBut_setStack_self (n : Fin 17) : SameBut [.sp] s (s.setStack s.stack n) :=
  fun p hp => by cases p <;> simp_all [Piece.Same]

theorem sameBut_setDisp (d : Display) : SameBut [.disp] s (s.setDisp d) :=
  fun p hp => by cases p <;> simp_all [Piece.Same]

theorem sameBut_setDisplayFlags (a b : Bool) :
    SameBut [.needsRedraw, .frameNonblank] s (s.setDisplayFlags a b) :=
  fun p hp => by cases p <;> simp_all [Piece.Same]

/-- Clearing the screen leaves frame_nonblank alone (D15). -/
theorem sameBut_setDisplayFlags_self (a : Bool) : SameBut [.needsRedraw] s (s.setDisplayFlags a s.frameNonblank) :=
  fun p hp => by cases p <;> simp_all [Piece.Same]

theorem sameBut_countDraw : SameBut [.draws] s s.countDraw :=
  fun p hp => by cases p <;> simp_all [Piece.Same]

theorem sameBut_skipIf (c : Bool) : SameBut [.pc] s (s.skipIf c) := by
  rw [State.skipIf_eq]
  exact sameBut_setPc s _

theorem sameBut_moveUnlisted (u : Unlisted) (x y : RegIdx) : SameBut [.regs] s (s.moveUnlisted u x y) := by
  cases u
  · exact sameBut_setV s x _
  · exact .refl _ s

theorem sameBut_waitKey (u : Unlisted) (x : RegIdx) : SameBut [.regs, .pc] s (s.waitKey u x) := by
  cases u
  · simp only [State.waitKey]
    split
    · exact (sameBut_setV s x _).mono (by simp)
    · exact (sameBut_setPc s _).mono (by simp)
  · exact .refl _ s

theorem sameBut_drawSprite (wrap : Bool) (rule : CollisionRule) (x y : RegIdx) (sprite : List Byte) :
    SameBut [.disp, .regs, .needsRedraw, .frameNonblank] s (s.drawSprite wrap rule x y sprite) :=
  ((sameBut_setDisp s _).andThen (sameBut_setV _ vF _)).andThen (sameBut_setDisplayFlags _ true true)

end

theorem sameBut_push {s t : State} {v : Word} (h : s.push v = some t) : SameBut [.stack, .sp] s t := by
  obtain ⟨_, _, rfl⟩ := State.push_eq_some h
  exact sameBut_setStack s _ _

theorem sameBut_pop {s t : State} {w : Word} (h : s.pop = some (w, t)) : SameBut [.sp] s t := by
  obtain ⟨_, _, _, _, rfl⟩ := State.pop_eq_some h
  exact sameBut_setStack_self s _

theorem sameBut_storeBlock {s t : State} {bs : List Byte} (h : s.storeBlock bs = some t) : SameBut [.mem] s t := by
  obtain ⟨_, rfl⟩ := State.storeBlock_eq_some.1 h
  exact sameBut_setMem s _

/-! ## The frame of each instruction -/

/-- A result in which only these pieces of the entry state are written before the instruction ends, and none where it
ends with an error (R106). -/
def EndsWriting (ps : List Piece) (s : State) (r : Result) : Prop :=
  ∃ s' e, r = .next (State.finish e s') ∧ SameBut ps s s' ∧ (e ≠ .ok → s' = s)

theorem endsWriting_raise (ps : List Piece) (s : State) (e : Status) : EndsWriting ps s (raise e s) :=
  ⟨s, e, rfl, .refl ps s, fun _ => rfl⟩

theorem endsWriting_complete {ps : List Piece} {s s' : State} (h : SameBut ps s s') :
    EndsWriting ps s (complete s') :=
  ⟨s', .ok, rfl, h, fun hne => absurd rfl hne⟩

/-- Every instruction writes only what the table says, and then status and mark. -/
theorem exec_endsWriting (i : Instr) (s : State) : EndsWriting (writtenBy i) s (exec i s) := by
  cases i
  case sys => exact endsWriting_complete (.refl _ s)
  case jp | jpV0 => exact endsWriting_complete (sameBut_setPc s _)
  case seByte | sneByte | seReg | sneReg | skp | sknp => exact endsWriting_complete (sameBut_skipIf s _)
  case ldByte | addByte | orReg | andReg | xorReg | ldVxDt => exact endsWriting_complete (sameBut_setV s _ _)
  case ldReg => exact endsWriting_complete (sameBut_moveUnlisted s _ _ _)
  case addReg | subReg | subnReg => exact endsWriting_complete (sameBut_regs (State.writeResultAndFlag_eq _ _ _ s))
  case shr | shl => exact endsWriting_complete (sameBut_regs (State.shiftWith_eq _ _ _ _ _ _ s))
  case rnd => exact endsWriting_complete ((sameBut_setV s _ _).andThen (sameBut_countDraw _))
  case ldVxK => exact endsWriting_complete (sameBut_waitKey s _ _)
  case ldI | addIVx | ldFVx => exact endsWriting_complete (sameBut_setI s _)
  case ldDtVx => exact endsWriting_complete (sameBut_setDt s _)
  case ldStVx => exact endsWriting_complete (sameBut_setSt s _)
  case cls => exact endsWriting_complete ((sameBut_setDisp s _).andThen (sameBut_setDisplayFlags_self _ _))
  case ret =>
    simp only [exec, execRet]
    split
    · exact endsWriting_raise _ s _
    · exact endsWriting_complete ((sameBut_pop ‹_›).andThen (sameBut_setPc _ _))
  case call =>
    simp only [exec, execCall]
    split
    · exact endsWriting_raise _ s _
    · exact endsWriting_complete ((sameBut_push ‹_›).andThen (sameBut_setPc _ _))
  case drw =>
    simp only [exec, execDrw]
    split
    · exact endsWriting_raise _ s _
    · exact endsWriting_complete (sameBut_drawSprite s _ _ _ _ _)
  case ldBVx =>
    simp only [exec, execLdBVx]
    split
    · exact endsWriting_raise _ s _
    · exact endsWriting_complete (sameBut_storeBlock ‹_›)
  case ldMemVx =>
    simp only [exec, execLdMemVx]
    split
    · exact endsWriting_raise _ s _
    · exact endsWriting_complete ((sameBut_storeBlock ‹_›).andThen (sameBut_setI _ _))
  case ldVxMem =>
    simp only [exec, execLdVxMem]
    split
    · exact endsWriting_raise _ s _
    · exact endsWriting_complete ((sameBut_regs (State.setRegs_eq 0 _ s)).andThen (sameBut_setI _ _))

/-- An instruction leaves every piece it does not write, the mark apart. -/
theorem exec_same {i : Instr} {s t : State} (h : exec i s = .next t) {p : Piece} (hp : p ∉ writtenBy i)
    (hf : p ≠ .faulted) : p.Same s t := by
  obtain ⟨s', e, hr, hs, _⟩ := exec_endsWriting i s
  obtain rfl := Host.Outcome.next.inj (h.symm.trans hr)
  refine (hs p hp).trans ?_
  cases p
  case faulted => exact absurd rfl hf
  all_goals rfl

/-- A piece that an instruction changed is one it writes. -/
theorem mem_writtenBy_of_not_same {i : Instr} {s t : State} (h : exec i s = .next t) {p : Piece}
    (hne : ¬ p.Same s t) (hf : p ≠ .faulted) : p ∈ writtenBy i :=
  Classical.byContradiction fun hp => hne (exec_same h hp hf)

theorem faulted_not_mem_writtenBy (i : Instr) : Piece.faulted ∉ writtenBy i := by
  cases i <;> simp [writtenBy]

/-- An instruction sets the mark when it ends with an error, and leaves it as it was otherwise (10_state.md R36). -/
theorem exec_faulted {i : Instr} {s t : State} (h : exec i s = .next t) :
    t.faulted = if t.status = .ok then s.faulted else true := by
  obtain ⟨s', e, hr, hs, _⟩ := exec_endsWriting i s
  obtain rfl := Host.Outcome.next.inj (h.symm.trans hr)
  have hf : s'.faulted = s.faulted := hs .faulted (faulted_not_mem_writtenBy i)
  rw [State.finish_faulted, hf]
  rfl

/-! ## Which instructions write which piece, read off the table -/

theorem dt_mem_writtenBy {i : Instr} : .dt ∈ writtenBy i ↔ ∃ x, i = .ldDtVx x := by
  cases i <;> simp [writtenBy]

theorem st_mem_writtenBy {i : Instr} : .st ∈ writtenBy i ↔ ∃ x, i = .ldStVx x := by
  cases i <;> simp [writtenBy]

theorem stack_mem_writtenBy {i : Instr} : .stack ∈ writtenBy i ↔ ∃ nnn, i = .call nnn := by
  cases i <;> simp [writtenBy]

theorem sp_mem_writtenBy {i : Instr} : .sp ∈ writtenBy i ↔ i = .ret ∨ ∃ nnn, i = .call nnn := by
  cases i <;> simp [writtenBy]

theorem disp_mem_writtenBy {i : Instr} : .disp ∈ writtenBy i ↔ i = .cls ∨ ∃ x y n, i = .drw x y n := by
  cases i <;> simp [writtenBy]

theorem needsRedraw_mem_writtenBy {i : Instr} : .needsRedraw ∈ writtenBy i ↔ i = .cls ∨ ∃ x y n, i = .drw x y n := by
  cases i <;> simp [writtenBy]

theorem frameNonblank_mem_writtenBy {i : Instr} : .frameNonblank ∈ writtenBy i ↔ ∃ x y n, i = .drw x y n := by
  cases i <;> simp [writtenBy]

theorem mem_mem_writtenBy {i : Instr} : .mem ∈ writtenBy i ↔ ∃ x, i = .ldBVx x ∨ i = .ldMemVx x := by
  cases i <;> simp [writtenBy]

theorem i_mem_writtenBy {i : Instr} : .i ∈ writtenBy i ↔
    (∃ nnn, i = .ldI nnn) ∨ (∃ x, i = .addIVx x ∨ i = .ldFVx x) ∨ ∃ x, i = .ldMemVx x ∨ i = .ldVxMem x := by
  cases i <;> simp [writtenBy]

theorem keys_not_mem_writtenBy (i : Instr) : Piece.keys ∉ writtenBy i := by
  cases i <;> simp [writtenBy]

theorem sndDb_not_mem_writtenBy (i : Instr) : Piece.sndDb ∉ writtenBy i := by
  cases i <;> simp [writtenBy]

end Sys2Proof.Machine
end

section
/-! What single instructions do to the registers, the index register and PC, and what the key tests ask of the keys. -/

namespace Sys2Proof.Machine

/-! ## Skips and keys -/

/-- An instruction that is a skip and nothing else (41_control_flow.md R124). -/
theorem complete_skipIf (c : Bool) (s : State) :
    complete (s.skipIf c) = .next { s with pc := if c then s.pc + 2#16 else s.pc, status := .ok } := by
  rw [State.skipIf_eq]
  rfl

/-- The key test of a register in one of its two outcomes: the register names a key, and that key is so. -/
theorem State.keyOf_eq_some {s : State} {x : RegIdx} {b : Bool} :
    s.keyOf x = some b ↔ ∃ k : Fin 16, (s.v x).toNat = k.val ∧ s.keys[k.val] = b := by
  constructor
  · intro h
    obtain ⟨hk, hb⟩ := Vector.getElem?_eq_some_iff.1 h
    exact ⟨⟨_, hk⟩, rfl, hb⟩
  · rintro ⟨k, hk, rfl⟩
    simp [State.keyOf, hk]

theorem State.lowestHeldKey_eq_none {s : State} :
    s.lowestHeldKey = none ↔ ∀ k : Fin 16, s.keys[k.val] = false := by
  rw [State.lowestHeldKey, List.findIdx?_eq_none_iff]
  constructor
  · intro h k
    exact h _ (Vector.mem_toList_iff.2 (Vector.getElem_mem k.isLt))
  · intro h b hb
    obtain ⟨k, hk, rfl⟩ := Vector.mem_iff_getElem.1 (Vector.mem_toList_iff.1 hb)
    exact h ⟨k, hk⟩

/-! ## Registers -/

/-- A register that changes under a register write is the one written. -/
theorem State.eq_of_setV_v_ne {s : State} {x r : RegIdx} {b : Byte} (h : (s.setV x b).v r ≠ s.v r) : x = r := by
  by_contra hne
  exact h (by rw [State.setV_v, if_neg fun hr => hne hr.symm])

theorem State.eq_of_moveUnlisted_v_ne {s : State} {u : Unlisted} {x y r : RegIdx}
    (h : (s.moveUnlisted u x y).v r ≠ s.v r) : x = r := by
  cases u
  · exact State.eq_of_setV_v_ne h
  · exact absurd rfl h

theorem State.eq_of_waitKey_v_ne {s : State} {u : Unlisted} {x r : RegIdx} (h : (s.waitKey u x).v r ≠ s.v r) :
    x = r := by
  cases u
  · simp only [State.waitKey] at h
    split at h
    · exact State.eq_of_setV_v_ne h
    · exact absurd rfl h
  · exact absurd rfl h

/-- A run of register writes from V0 on changes no register past its end. -/
theorem State.le_of_setRegs_v_ne {s : State} {x r : RegIdx} {bs : List Byte} (hlen : bs.length = blockCount x)
    (h : (State.setRegs 0 bs s).v r ≠ s.v r) : r ≤ x := by
  by_contra hlt
  have hr : bs.length ≤ r.toNat := hlen ▸ BitVec.not_le.1 hlt
  have hx : bs.length ≤ 16 := hlen ▸ x.isLt
  apply h
  rw [State.setRegs_v 0 bs s (by omega)]
  simp [List.getElem?_eq_none hr]

/-- The block load changes no register above VX (43_index_memory.md R185). -/
theorem execLdVxMem_le_of_v_ne {s t : State} {x r : RegIdx} (h : execLdVxMem x s = .next t) (hv : t.v r ≠ s.v r) :
    r ≤ x := by
  unfold execLdVxMem at h
  split at h
  · cases h
    exact absurd rfl hv
  · rename_i bytes hload
    cases h
    obtain ⟨_, rfl⟩ := State.loadBlock_eq_some.1 hload
    exact State.le_of_setRegs_v_ne (Memory.length_readBytes _ _ _) hv

/-- An instruction that does not write the register file changes no register. -/
theorem exec_v_of_not_mem {i : Instr} {s t : State} (h : exec i s = .next t) (hp : .regs ∉ writtenBy i) (r : RegIdx) :
    t.v r = s.v r := by
  have hr : t.regs = s.regs := exec_same h hp (by decide)
  simp only [State.v, hr]

/-! ## The index register -/

/-- A block transfer leaves I as it was, or advanced as the dialect says (43_index_memory.md R184, R185). -/
theorem exec_blockTransfer_i {i : Instr} {x : RegIdx} {s t : State} (hi : i = .ldMemVx x ∨ i = .ldVxMem x)
    (h : exec i s = .next t) : t.i = s.i ∨ t.i = indexAfterBlock dialect s.i x := by
  rcases hi with rfl | rfl
  · simp only [exec, execLdMemVx] at h
    split at h <;> cases h
    · exact .inl rfl
    · exact .inr rfl
  · simp only [exec, execLdVxMem] at h
    split at h <;> cases h
    · exact .inl rfl
    · exact .inr rfl

/-- A block transfer moves I under the Legacy dialect only (10_state.md R23). -/
theorem dialect_of_blockTransfer_i_ne {i : Instr} {x : RegIdx} {s t : State} (hi : i = .ldMemVx x ∨ i = .ldVxMem x)
    (h : exec i s = .next t) (hne : t.i ≠ s.i) : dialect = .legacy := by
  cases hd : dialect
  · rfl
  · exact absurd ((exec_blockTransfer_i hi h).resolve_left hne) (by rw [hd]; exact hne)

/-! ## The program counter -/

/-- An instruction that does not write PC leaves it as it was. -/
theorem exec_pc_of_not_mem {i : Instr} {s t : State} (h : exec i s = .next t) (hp : .pc ∉ writtenBy i) :
    t.pc = s.pc :=
  exec_same h hp (by decide)

theorem toNat_addrOperand (nnn : Imm12) : (addrOperand nnn).toNat = nnn.toNat := by
  rw [addrOperand, BitVec.toNat_setWidth]
  omega

/-- JP V0 does not wrap: the target is at most 0x10FE (41_control_flow.md R123). -/
theorem toNat_jpV0_target (nnn : Imm12) (s : State) :
    (addrOperand nnn + s.v16 0#4).toNat = nnn.toNat + (s.v 0#4).toNat := by
  rw [BitVec.toNat_add, toNat_addrOperand, State.v16, BitVec.toNat_setWidth]
  omega

theorem waitKey_pc (u : Unlisted) (x : RegIdx) (s : State) :
    (s.waitKey u x).pc =
      if u = .standard ∧ ∀ k : Fin 16, s.keys[k.val] = false then s.pc - 2#16 else s.pc := by
  simp only [← State.lowestHeldKey_eq_none]
  cases u
  · simp only [State.waitKey]
    split <;> simp_all [State.fetchedFrom]
  · simp [State.waitKey]

end Sys2Proof.Machine
end

section
/-! The rules about single instructions (10_state.md R21, R25, R31-R34; 41_control_flow.md R124-R127). -/

namespace Sys2Proof.Machine

/-- Settles O19: each comparing skip is a skip on its comparison, with no other effect. -/
theorem comparingSkips : Obligations.ComparingSkips := by
  unfold Obligations.ComparingSkips
  intro x y nn s
  refine ⟨?_, ?_, ?_, ?_⟩
  · simp [exec, execSeByte, complete_skipIf]
  · simp [exec, execSneByte, complete_skipIf]
  · simp [exec, execSeReg, complete_skipIf]
  · simp [exec, execSneReg, complete_skipIf]

/-- Settles O44: a piece that changed is one the table says the instruction writes; the dialect decides for I alone. -/
theorem eachPieceOfStateHasItsWriters : Obligations.EachPieceOfStateHasItsWriters := by
  unfold Obligations.EachPieceOfStateHasItsWriters
  intro i s t h
  have written {p : Piece} (hf : p ≠ .faulted) (hne : ¬ p.Same s t) : p ∈ writtenBy i :=
    mem_writtenBy_of_not_same h hne hf
  refine ⟨?keys, ?sndDb, ?dt, ?st, ?stack, ?sp, ?disp, ?frameNonblank, ?mem, ?i⟩
  case keys => exact exec_same h (keys_not_mem_writtenBy i) (by decide)
  case sndDb => exact exec_same h (sndDb_not_mem_writtenBy i) (by decide)
  case dt => exact fun hne => dt_mem_writtenBy.1 (written (by decide) hne)
  case st => exact fun hne => st_mem_writtenBy.1 (written (by decide) hne)
  case stack => exact fun hne => stack_mem_writtenBy.1 (written (by decide) hne)
  case sp => exact fun hne => sp_mem_writtenBy.1 (written (by decide) hne)
  case disp =>
    rintro (hne | hne)
    · exact disp_mem_writtenBy.1 (written (by decide) hne)
    · exact needsRedraw_mem_writtenBy.1 (written (by decide) hne)
  case frameNonblank => exact fun hne => frameNonblank_mem_writtenBy.1 (written (by decide) hne)
  case mem => exact fun hne => mem_mem_writtenBy.1 (written (by decide) hne)
  case i =>
    intro hne
    rcases i_mem_writtenBy.1 (written (by decide) hne) with hset | hadd | ⟨x, hblock⟩
    · exact .inl hset
    · exact .inr (.inl hadd)
    · exact .inr (.inr ⟨dialect_of_blockTransfer_i_ne hblock h hne, x, hblock⟩)

/-- Settles O43: of the instructions that write the register file, all but the six flag setters write their named
destination, the block load V0 to VX. -/
theorem onlyFlagInstructionsWriteVf : Obligations.OnlyFlagInstructionsWriteVf := by
  unfold Obligations.OnlyFlagInstructionsWriteVf
  intro i s t h hv
  cases i
  case addReg | subReg | shr | subnReg | shl | drw => trivial
  case ldByte | addByte | orReg | andReg | xorReg | rnd | ldVxDt => cases h; exact State.eq_of_setV_v_ne hv
  case ldReg => cases h; exact State.eq_of_moveUnlisted_v_ne hv
  case ldVxK => cases h; exact State.eq_of_waitKey_v_ne hv
  case ldVxMem x =>
    have hle : vF ≤ x := execLdVxMem_le_of_v_ne h hv
    show x = vF
    bv_omega
  all_goals exact hv (exec_v_of_not_mem h (by simp [writtenBy]) vF)

/-- Settles O13: the frame for the instructions that do not write PC, and the target of each that does. -/
theorem pcAfterEachInstruction : Obligations.PcAfterEachInstruction := by
  unfold Obligations.PcAfterEachInstruction
  intro i s t h
  cases i
  case seByte | sneByte | seReg | sneReg => cases h; simp [State.skipIf_eq]
  case skp | sknp => cases h; simp [State.skipIf_eq, State.keyOf_eq_some]
  case jp nnn => cases h; exact toNat_addrOperand nnn
  case jpV0 nnn => cases h; exact toNat_jpV0_target nnn s
  case ldVxK x =>
    cases h
    simp only [State.finish_pc, waitKey_pc]
    split <;> rfl
  case call nnn =>
    simp only [exec, execCall] at h
    split at h <;> cases h
    · simp [State.push_eq_none.1 ‹_›]
    · rename_i s' hpush
      obtain ⟨hlt, _, _⟩ := State.push_eq_some hpush
      simp [hlt.ne, toNat_addrOperand]
  case ret =>
    simp only [exec, execRet] at h
    split at h <;> cases h
    · simp [State.pop_eq_none.1 ‹_›]
    · rename_i w s' hpop
      obtain ⟨hpos, hk, _, rfl, rfl⟩ := State.pop_eq_some hpop
      simp [hpos.ne']
  all_goals exact exec_pc_of_not_mem h (by simp [writtenBy])

end Sys2Proof.Machine
end

section
/-! The sticky mark (10_state.md R36, 60_exceptions.md R245). -/

namespace Sys2Proof.Machine

/-- A step taken with the mark clear answers a next state. -/
theorem exists_step_next {s : State} (hs : s.faulted = false) : ∃ t, step s = .next t := by
  rcases hf : s.fetch with _ | w
  · exact ⟨_, step_of_none hs hf⟩
  · cases hd : decodeWord w with
    | ok i =>
      obtain ⟨_, _, hnext, _⟩ := exec_ends i s.advance
      exact ⟨_, (step_of_ok hs hf hd).trans hnext⟩
    | error e => exact ⟨_, step_of_error hs hf hd⟩

/-- A step that answers a next state was taken with the mark clear, and leaves it in agreement with the status it stores
(10_state.md R36). -/
theorem step_markAgrees {s t : State} (h : step s = .next t) : t.markAgrees := by
  obtain ⟨hs, hcase⟩ := step_next h
  unfold State.markAgrees
  rcases hcase with ⟨_, rfl⟩ | ⟨w, i, _, _, hexec⟩ | ⟨w, e, _, _, rfl⟩
  · simp
  · rw [exec_faulted hexec, State.advance_faulted, hs]
    split <;> simp_all
  · simp [hs]

theorem State.tickTimers_faulted (s : State) : s.tickTimers.2.faulted = s.faulted := by
  rw [State.tickTimers]
  rcases Nat.eq_zero_or_pos s.st.toNat with h0 | hpos
  · rw [State.tickWith_of_zero _ _ h0]
  · rw [State.tickWith_of_pos _ _ hpos]

/-- A host operation from a faulted state is no step, and clears the mark only as a reset. -/
theorem transact_faulted_of_faulted {s t : State} {o : HostOp} {r : HostReply} (hs : s.faulted = true)
    (h : transact o s = .next (r, t)) : t.faulted = false ↔ ∃ p, o = .reset p := by
  cases o
  case reset p => cases h; simp [State.hostReset, State.reset]
  case loadProgram bytes => rw [transact_load_next h]; simp [hs]
  case step =>
    obtain ⟨hstep, _⟩ := transact_step_next h
    rw [step_of_faulted hs] at hstep
    cases hstep
  case tickTimers => cases h; simp [State.tickTimers_faulted, hs]
  case display => cases h; simp [hs]
  case consumeDirtyFlags => cases h; simp [State.consumeDirtyFlags, hs]
  case setKey => cases h; simp [State.setKey, hs]

/-- Settles O10, a clause at a time. -/
theorem errorMarkIsStickyAndHalts : Obligations.ErrorMarkIsStickyAndHalts := by
  unfold Obligations.ErrorMarkIsStickyAndHalts
  refine ⟨fun s t _ h => step_markAgrees h, fun s hs => ⟨step_of_faulted hs, ?_⟩,
    fun s t o r hs h => transact_faulted_of_faulted hs h⟩
  rw [transact, hostStep, step_of_faulted hs]

end Sys2Proof.Machine
end

section
/-! What no instruction reads (10_state.md R30, R31, R33, R35), as a projection: a state with those pieces blanked out.
Every operation commutes with it, so an instruction does the same from a state and from its blanked form. -/

namespace Sys2Proof.Machine

/-- The state with every piece no instruction reads set to its reset value. -/
def State.blanked (s : State) : State :=
  { s with st := 0, sndDb := none, needsRedraw := false, frameNonblank := false, status := .ok, faulted := false }

/-- Two states differ at most in what no instruction reads exactly when they are equal once it is blanked. -/
theorem sameButUnread_iff_blanked {s t : State} : SameButUnread s t ↔ s.blanked = t.blanked := by
  cases s
  cases t
  simp only [SameButUnread, State.blanked, State.mk.injEq, true_and, eq_comm]

section
variable (s : State)

/-! What an instruction reads is the same in the blanked state. -/

@[simp] theorem State.blanked_i : s.blanked.i = s.i := rfl
@[simp] theorem State.blanked_pc : s.blanked.pc = s.pc := rfl
@[simp] theorem State.blanked_sp : s.blanked.sp = s.sp := rfl
@[simp] theorem State.blanked_stack : s.blanked.stack = s.stack := rfl
@[simp] theorem State.blanked_dt : s.blanked.dt = s.dt := rfl
@[simp] theorem State.blanked_mem : s.blanked.mem = s.mem := rfl
@[simp] theorem State.blanked_disp : s.blanked.disp = s.disp := rfl
@[simp] theorem State.blanked_draws : s.blanked.draws = s.draws := rfl
@[simp] theorem State.blanked_v (x : RegIdx) : s.blanked.v x = s.v x := rfl
@[simp] theorem State.blanked_v16 (x : RegIdx) : s.blanked.v16 x = s.v16 x := rfl
@[simp] theorem State.blanked_keyOf (x : RegIdx) : s.blanked.keyOf x = s.keyOf x := rfl
@[simp] theorem State.blanked_lowestHeldKey : s.blanked.lowestHeldKey = s.lowestHeldKey := rfl
@[simp] theorem State.blanked_fetchedFrom : s.blanked.fetchedFrom = s.fetchedFrom := rfl
@[simp] theorem State.blanked_blockRegs (x : RegIdx) : s.blanked.blockRegs x = s.blockRegs x := rfl
@[simp] theorem State.blanked_loadBlock (n : Nat) : s.blanked.loadBlock n = s.loadBlock n := rfl
@[simp] theorem State.blanked_fetch : s.blanked.fetch = s.fetch := rfl
@[simp] theorem State.blanked_blanked : s.blanked.blanked = s.blanked := rfl

/-! Every write commutes with blanking, or is blanked out. -/

@[simp] theorem State.setV_blanked (x : RegIdx) (b : Byte) : (s.setV x b).blanked = s.blanked.setV x b := rfl
@[simp] theorem State.setI_blanked (w : Word) : (s.setI w).blanked = s.blanked.setI w := rfl
@[simp] theorem State.setPc_blanked (w : Word) : (s.setPc w).blanked = s.blanked.setPc w := rfl
@[simp] theorem State.setDt_blanked (b : Byte) : (s.setDt b).blanked = s.blanked.setDt b := rfl
@[simp] theorem State.setSt_blanked (b : Byte) : (s.setSt b).blanked = s.blanked := rfl
@[simp] theorem State.setMem_blanked (m : Memory) : (s.setMem m).blanked = s.blanked.setMem m := rfl
@[simp] theorem State.setStack_blanked (k : Vector Word 16) (n : Fin 17) :
    (s.setStack k n).blanked = s.blanked.setStack k n := rfl
@[simp] theorem State.setDisp_blanked (d : Display) : (s.setDisp d).blanked = s.blanked.setDisp d := rfl
@[simp] theorem State.setDisplayFlags_blanked (a b : Bool) : (s.setDisplayFlags a b).blanked = s.blanked := rfl
@[simp] theorem State.countDraw_blanked : s.countDraw.blanked = s.blanked.countDraw := rfl
@[simp] theorem State.finish_blanked (e : Status) : (s.finish e).blanked = s.blanked := rfl
@[simp] theorem State.advance_blanked : s.advance.blanked = s.blanked.advance := rfl

@[simp] theorem State.skipIf_blanked (c : Bool) : (s.skipIf c).blanked = s.blanked.skipIf c := by
  simp [State.skipIf_eq]

@[simp] theorem State.writeResultAndFlag_blanked (last : Bool) (x : RegIdx) (o : AluOut) :
    (s.writeResultAndFlag last x o).blanked = s.blanked.writeResultAndFlag last x o := by
  unfold State.writeResultAndFlag
  split
  · rfl
  · split <;> rfl

@[simp] theorem State.writeShiftedVy_blanked (d : Dialect) (b : Bool) (y : RegIdx) (r : Byte) :
    (s.writeShiftedVy d b y r).blanked = s.blanked.writeShiftedVy d b y r := by
  unfold State.writeShiftedVy
  split <;> rfl

@[simp] theorem State.shiftWith_blanked (d : Dialect) (b last : Bool) (op : Byte → AluOut) (x y : RegIdx) :
    (s.shiftWith d b last op x y).blanked = s.blanked.shiftWith d b last op x y := by
  simp [State.shiftWith]

@[simp] theorem State.moveUnlisted_blanked (u : Unlisted) (x y : RegIdx) :
    (s.moveUnlisted u x y).blanked = s.blanked.moveUnlisted u x y := by
  cases u <;> rfl

@[simp] theorem State.waitKey_blanked (u : Unlisted) (x : RegIdx) :
    (s.waitKey u x).blanked = s.blanked.waitKey u x := by
  cases u
  · simp only [State.waitKey, State.blanked_lowestHeldKey]
    split <;> rfl
  · rfl

@[simp] theorem State.setRegs_blanked (k : Nat) (bs : List Byte) :
    (State.setRegs k bs s).blanked = State.setRegs k bs s.blanked := by
  induction bs generalizing k s with
  | nil => rfl
  | cons b bs ih => simp [State.setRegs, ih]

@[simp] theorem State.blanked_drawSprite (wrap : Bool) (rule : CollisionRule) (x y : RegIdx) (sprite : List Byte) :
    (s.blanked.drawSprite wrap rule x y sprite).blanked = (s.drawSprite wrap rule x y sprite).blanked := rfl

/-! The checked operations succeed alike, and their results commute with blanking. -/

@[simp] theorem State.blanked_push (v : Word) : s.blanked.push v = (s.push v).map State.blanked := by
  by_cases h : s.sp.val < 16 <;> simp [State.push, h]

@[simp] theorem State.blanked_pop : s.blanked.pop = s.pop.map fun p => (p.1, p.2.blanked) := by
  by_cases h : 0 < s.sp.val <;> simp [State.pop, h]

@[simp] theorem State.blanked_storeBlock (bs : List Byte) :
    s.blanked.storeBlock bs = (s.storeBlock bs).map State.blanked := by
  by_cases h : inBounds s.i bs.length <;> simp [State.storeBlock, h]

end

/-- What an outcome shows once what no instruction reads is blanked: the next state so, and the status it stores. -/
def observed : Result → Option (State × Status)
  | .next t => some (t.blanked, t.status)
  | .fault _ => none
  | .refused _ => none

theorem observed_eq_some {r : Result} {b : State} {e : Status} :
    observed r = some (b, e) ↔ ∃ t, r = .next t ∧ t.blanked = b ∧ t.status = e := by
  cases r <;> simp [observed]

@[simp] theorem observed_complete (s : State) : observed (complete s) = some (s.blanked, .ok) := rfl
@[simp] theorem observed_raise (e : Status) (s : State) : observed (raise e s) = some (s.blanked, e) := rfl

/-- No instruction's outcome depends on what is blanked: a checked operation succeeds alike in both states, and the
instructions that never raise are compositions of writes, which commute with blanking. -/
theorem observed_exec_blanked (i : Instr) (s : State) : observed (exec i s.blanked) = observed (exec i s) := by
  cases i
  case ret =>
    simp only [exec, execRet, State.blanked_pop]
    cases s.pop <;> simp
  case call nnn =>
    simp only [exec, execCall, State.blanked_push, State.blanked_pc]
    cases s.push s.pc <;> simp
  case drw x y n =>
    simp only [exec, execDrw, State.blanked_loadBlock]
    cases s.loadBlock n.toNat <;> simp
  case ldBVx x =>
    simp only [exec, execLdBVx, State.blanked_storeBlock, State.blanked_v]
    cases s.storeBlock (bcdDigits (s.v x)) <;> simp
  case ldMemVx x =>
    simp only [exec, execLdMemVx, State.blanked_storeBlock, State.blanked_blockRegs]
    cases s.storeBlock (s.blockRegs x) <;> simp
  case ldVxMem x =>
    simp only [exec, execLdVxMem, State.blanked_loadBlock]
    cases s.loadBlock (blockCount x) <;> simp
  all_goals simp [exec, execCls, execSys, execJp, execJpV0, execSeByte, execSneByte, execSeReg, execSneReg,
    execSkp, execSknp,
    execLdByte, execAddByte, execLdReg, execOrReg, execAndReg, execXorReg, execAddReg, execSubReg, execSubnReg,
    execShr, execShl, execRnd, execLdI, execAddIVx, execLdFVx, execLdVxDt, execLdDtVx, execLdStVx, execLdVxK]

/-- Nor does the outcome of a step taken with the mark clear. -/
theorem observed_step_of_blanked_eq {s t : State} (hs : s.faulted = false) (ht : t.faulted = false)
    (h : s.blanked = t.blanked) : observed (step s) = observed (step t) := by
  have hfetch : s.fetch = t.fetch := by rw [← s.blanked_fetch, h, t.blanked_fetch]
  have hadv : s.advance.blanked = t.advance.blanked := by simp [h]
  rcases hf : t.fetch with _ | w
  · rw [step_of_none hs (hfetch.trans hf), step_of_none ht hf]
    simp [stepOutOfBounds, h]
  · cases hd : decodeWord w with
    | ok i =>
      rw [step_of_ok hs (hfetch.trans hf) hd, step_of_ok ht hf hd, ← observed_exec_blanked, hadv,
        observed_exec_blanked]
    | error e =>
      rw [step_of_error hs (hfetch.trans hf) hd, step_of_error ht hf hd, observed_complete, observed_complete, hadv]

/-- Settles O45: the two states are equal once blanked, so their steps are, and the status gives the mark. -/
theorem unreadStateHasNoInfluence : Obligations.UnreadStateHasNoInfluence := by
  unfold Obligations.UnreadStateHasNoInfluence
  intro s t hst hmark
  constructor
  · intro s' hs'
    obtain ⟨hs, _⟩ := step_next hs'
    have hobs : observed (step t) = some (s'.blanked, s'.status) := by
      rw [← observed_step_of_blanked_eq hs (hmark ▸ hs) (sameButUnread_iff_blanked.1 hst), hs', observed]
    obtain ⟨t', ht', hblank, hstatus⟩ := observed_eq_some.1 hobs
    refine ⟨t', ht', sameButUnread_iff_blanked.2 hblank.symm, hstatus.symm, ?_⟩
    have hs'' := step_markAgrees hs'
    have ht'' := step_markAgrees ht'
    rw [State.markAgrees] at hs'' ht''
    rw [Bool.eq_iff_iff, hs'', ht'', hstatus]
  · intro f hf
    cases hs : s.faulted
    · obtain ⟨s', hnext⟩ := exists_step_next hs
      rw [hnext] at hf
      cases hf
    · rw [step_of_faulted (hmark ▸ hs), ← hf, step_of_faulted hs]

end Sys2Proof.Machine
end

section
/-! The invariant of the machine is kept by every step (10_state.md R25, R35, R36; 20_memory.md R62; 60_exceptions.md
R248). -/

namespace Sys2Proof.Machine

/-- What a step enters execute with, in a state with the invariant: the PC of a fetchable word, advanced. -/
structure State.EntersExec (s : State) : Prop where
  memWf : Memory.wf s.mem
  pcLow : 2 ≤ s.pc.toNat
  pcHigh : s.pc.toNat ≤ 0x1000
  stackBounded : ∀ k : Fin 16, s.stack[k.val].toNat ≤ 0x1000

theorem State.Inv.entersExec_advance {s : State} {w : Word} (h : s.Inv) (hf : s.fetch = some w) :
    s.advance.EntersExec := by
  obtain ⟨hmem, _, ⟨_, hstack⟩, _⟩ := h
  obtain ⟨⟨hlow, hhigh⟩, _⟩ := State.fetch_eq_some.1 hf
  have hpc : (s.pc + 2#16).toNat = s.pc.toNat + 2 := by
    simp only [pcMax] at hhigh
    bv_omega
  simp only [progBase, pcMax] at hlow hhigh
  exact ⟨hmem, by simp [hpc], by simp [hpc]; omega, hstack⟩

/-- Memory stays canonical under every instruction (20_memory.md R62). -/
theorem exec_mem_wf {i : Instr} {s t : State} (hs : Memory.wf s.mem) (h : exec i s = .next t) : Memory.wf t.mem := by
  by_cases hp : .mem ∈ writtenBy i
  · obtain ⟨x, rfl | rfl⟩ := mem_mem_writtenBy.1 hp
    · simp only [exec, execLdBVx] at h
      split at h <;> cases h
      · exact hs
      · rename_i hstore
        exact (State.storeBlock_wf hstore hs :)
    · simp only [exec, execLdMemVx] at h
      split at h <;> cases h
      · exact hs
      · rename_i hstore
        exact (State.storeBlock_wf hstore hs :)
  · have hmem : t.mem = s.mem := exec_same h hp (by decide)
    rwa [hmem]

/-- A return address is the PC its call was entered with, so a bound on both stays one on the stack (R25). -/
theorem exec_stack_le {i : Instr} {s t : State} {b : Nat} (hpc : s.pc.toNat ≤ b)
    (hs : ∀ k : Fin 16, s.stack[k.val].toNat ≤ b) (h : exec i s = .next t) (k : Fin 16) :
    t.stack[k.val].toNat ≤ b := by
  by_cases hp : .stack ∈ writtenBy i
  · obtain ⟨nnn, rfl⟩ := stack_mem_writtenBy.1 hp
    simp only [exec, execCall] at h
    split at h <;> cases h
    · exact hs k
    · obtain ⟨_, _, rfl⟩ := State.push_eq_some ‹_›
      simp only [State.finish_stack, State.setPc_stack, State.setStack_stack, Vector.getElem_set]
      split
      · exact hpc
      · exact hs k
  · have hstack : t.stack = s.stack := exec_same h hp (by decide)
    rw [hstack]
    exact hs k

/-- PC after an instruction is at most 0x10FE, the highest target of JP V0 (R25). -/
theorem State.EntersExec.exec_pc_le {i : Instr} {s t : State} (hs : s.EntersExec) (h : exec i s = .next t) :
    t.pc.toNat ≤ 0x10FE := by
  obtain ⟨_, hlow, hhigh, hstack⟩ := hs
  have hkeep : s.pc.toNat ≤ 0x10FE := by omega
  have hskip : (s.pc + 2#16).toNat ≤ 0x10FE := by bv_omega
  have hpc := pcAfterEachInstruction i s t h
  cases i <;> simp only at hpc
  case seByte | sneByte | seReg | sneReg | skp | sknp =>
    rw [hpc]
    split
    · exact hskip
    · exact hkeep
  case jp nnn => have := nnn.isLt; omega
  case jpV0 nnn => have := nnn.isLt; have := (s.v 0#4).isLt; omega
  case call nnn =>
    have := nnn.isLt
    split at hpc
    · exact hpc ▸ hkeep
    · omega
  case ret =>
    split at hpc
    · exact hpc ▸ hkeep
    · obtain ⟨hk, hpop⟩ := Vector.getElem?_eq_some_iff.1 hpc
      have := hstack ⟨_, hk⟩
      rw [← hpop]
      simp only at this
      omega
  case ldVxK =>
    split at hpc
    · rw [hpc]; bv_omega
    · exact hpc ▸ hkeep
  all_goals exact hpc ▸ hkeep

/-- Settles O48: the frame keeps what an instruction does not write, and each writer respects its bound. -/
theorem stepKeepsInvariant : Obligations.StepKeepsInvariant := by
  unfold Obligations.StepKeepsInvariant
  intro s t hs h
  have hmark := step_markAgrees h
  obtain ⟨_, hcase⟩ := step_next h
  rcases hcase with ⟨_, rfl⟩ | ⟨w, i, hf, _, hexec⟩ | ⟨w, e, hf, _, rfl⟩
  · obtain ⟨hmem, _, hpc, hdb⟩ := hs
    exact ⟨hmem, hmark, hpc, hdb⟩
  · have hentry := hs.entersExec_advance hf
    have hsnd : t.sndDb = s.sndDb := exec_same hexec (sndDb_not_mem_writtenBy i) (by decide)
    obtain ⟨_, _, _, hdb⟩ := hs
    refine ⟨exec_mem_wf hentry.memWf hexec, hmark,
      ⟨hentry.exec_pc_le hexec, exec_stack_le hentry.pcHigh hentry.stackBounded hexec⟩, ?_⟩
    rwa [State.debounceBounded, hsnd]
  · have hentry := hs.entersExec_advance hf
    obtain ⟨_, _, _, hdb⟩ := hs
    exact ⟨hentry.memWf, hmark, ⟨hentry.pcHigh.trans (by decide), hentry.stackBounded⟩, hdb⟩

end Sys2Proof.Machine
end

section
/-! Memory read through its bytes (20_memory.md R60, R62): a canonical list holds exactly the cells whose byte differs
from the reset contents, so its bytes determine it. -/

namespace Sys2Proof.Machine

/-- The cells of a canonical memory are the bytes that differ from what an unlisted address reads as. -/
theorem Memory.mem_iff_read {m : Memory} (hm : Memory.wf m) {c : Host.Cell} :
    c ∈ m ↔ c.1 < memSize ∧ c.2 ≠ Memory.initial c.1 ∧ m.read c.1 = c.2 := by
  induction m with
  | nil => simp [Memory.read, eq_comm]
  | cons d m ih =>
    obtain ⟨hlt, hd, hm⟩ := Memory.wf_cons.1 hm
    rw [List.mem_cons, ih hm, Memory.read]
    rcases lt_trichotomy c.1 d.1 with hc | hc | hc
    · have hread : Memory.read m c.1 = Memory.initial c.1 := Memory.read_of_lt fun e he => hc.trans (hlt e he)
      rw [if_neg hc.ne', if_pos hc, hread]
      exact or_iff_right fun hcd => hc.ne (congrArg Prod.fst hcd)
    · have hread : Memory.read m c.1 = Memory.initial c.1 := Memory.read_of_lt (hc ▸ hlt)
      have hval : c = d ↔ d.2 = c.2 := by rw [Prod.ext_iff]; simp [hc, eq_comm]
      rw [if_pos hc.symm, hread, hval]
      constructor
      · rintro (hcd | ⟨_, hne, heq⟩)
        · exact ⟨hc ▸ hd.1, hc ▸ hcd ▸ hd.2, hcd⟩
        · exact absurd heq.symm hne
      · exact fun ⟨_, _, hcd⟩ => .inl hcd
    · rw [if_neg hc.ne, if_neg hc.le.not_gt]
      exact or_iff_right fun hcd => hc.ne' (congrArg Prod.fst hcd)

/-- Settles O46: the two lists have the same cells, and rising addresses leave one order for them. -/
theorem memoryIsDeterminedByItsBytes : Obligations.MemoryIsDeterminedByItsBytes := by
  unfold Obligations.MemoryIsDeterminedByItsBytes
  intro m m' hm hm' hread
  have : Std.Irrefl fun c d : Host.Cell => c.1 < d.1 := ⟨fun c => lt_irrefl c.1⟩
  have : Std.Antisymm fun c d : Host.Cell => c.1 < d.1 := ⟨fun _ _ h h' => absurd h' h.asymm⟩
  have hcells : ∀ c, c ∈ m ↔ c ∈ m' := fun c => by
    rw [Memory.mem_iff_read hm, Memory.mem_iff_read hm']
    exact and_congr_right fun hc => by rw [hread c.1 hc]
  exact hm.1.eq_of_mem_iff hm'.1 hcells

end Sys2Proof.Machine
end

section
/-! Fetch (20_memory.md R63, R65, R68, R73): the word it answers as a number, what it answers after a store, and the
step where it answers nothing. -/

namespace Sys2Proof.Machine

/-- A fetch in range answers the two bytes at PC, the lower address as the high byte. -/
theorem State.exists_fetch_toNat {s : State} (hlow : progBase ≤ s.pc.toNat) (hhigh : s.pc.toNat ≤ pcMax) :
    ∃ w, s.fetch = some w ∧
      w.toNat = (s.mem.read s.pc.toNat).toNat * 256 + (s.mem.read (s.pc.toNat + 1)).toNat :=
  ⟨_, State.fetch_eq_some.2 ⟨⟨hlow, hhigh⟩, rfl⟩, toNat_bigEndian _ _⟩

/-- Settles O8: the range of PC keeps both addresses in memory, and the fetch answers their bytes. -/
theorem fetchIsBigEndian : Obligations.FetchIsBigEndian := by
  unfold Obligations.FetchIsBigEndian
  intro s hlow hhigh
  exact ⟨by simp only [memSize]; omega, State.exists_fetch_toNat hlow hhigh⟩

/-- Settles O9: outside the range the fetch answers nothing, and the step is the one that raises. -/
theorem outOfBoundsStepChangesNothingElse : Obligations.OutOfBoundsStepChangesNothingElse := by
  unfold Obligations.OutOfBoundsStepChangesNothingElse
  intro s hpc
  have hfetch : s.fetch = none := State.fetch_eq_none.2 (by simp only [progBase, pcMax]; omega)
  exact ⟨hfetch, fun hs => (step_of_none hs hfetch).trans (raise_eq (by decide) s)⟩

/-- A block store that ends Ok had its whole range in memory, and wrote V0 to VX there (43_index_memory.md R184). -/
theorem exec_ldMemVx_ok {x : RegIdx} {s t : State} (h : exec (.ldMemVx x) s = .next t) (ht : t.status = .ok) :
    s.i.toNat + (s.blockRegs x).length ≤ memSize ∧ t.mem = s.mem.writeBytes s.i.toNat (s.blockRegs x) := by
  simp only [exec, execLdMemVx] at h
  split at h <;> cases h
  · cases ht
  · obtain ⟨hrange, rfl⟩ := State.storeBlock_eq_some.1 ‹_›
    exact ⟨hrange, rfl⟩

/-- After a block store that ended Ok each address of the block reads as the register stored there (20_memory.md R64). -/
theorem exec_ldMemVx_read {x k : RegIdx} {s t : State} (hm : Memory.wf s.mem) (h : exec (.ldMemVx x) s = .next t)
    (ht : t.status = .ok) (hk : k ≤ x) : t.mem.read (s.i.toNat + k.toNat) = s.v k := by
  obtain ⟨hrange, hmem⟩ := exec_ldMemVx_ok h ht
  rw [hmem, Memory.read_writeBytes hrange hm, if_pos (Nat.le_add_right _ _), Nat.add_sub_cancel_left,
    State.getElem?_blockRegs s hk, Option.getD_some]

/-- Settles O37: the two bytes the fetch answers are Vk and V(k+1), read back from the block. -/
theorem storeIsSeenByNextFetch : Obligations.StoreIsSeenByNextFetch := by
  unfold Obligations.StoreIsSeenByNextFetch
  intro x k s t hm h ht hk hpc hlow hhigh
  obtain ⟨w, hw, hval⟩ := State.exists_fetch_toNat hlow hhigh
  have hsucc : (k + 1#4).toNat = k.toNat + 1 := by bv_omega
  have hnext : k + 1#4 ≤ x := by bv_omega
  rw [hpc, Nat.add_assoc, ← hsucc, exec_ldMemVx_read hm h ht (BitVec.le_of_lt hk),
    exec_ldMemVx_read hm h ht hnext] at hval
  exact ⟨w, hw, hval⟩

end Sys2Proof.Machine
end

section
/-! A word and its fields (30_encoding.md R81, R83): each field as a number, the word as the concatenation of its
fields, and the word of format XY as a number or-ed together. -/

namespace Sys2Proof

/-- Settles O5: a field is the word shifted right and cut to the field's width. -/
theorem fieldsOfEveryWord : Obligations.FieldsOfEveryWord := by
  unfold Obligations.FieldsOfEveryWord
  intro w
  have hp : w.toNat / 4096 % 16 = w.toNat / 4096 := Nat.mod_eq_of_lt (Nat.div_lt_of_lt_mul w.isLt)
  simp [fieldP, fieldX, fieldY, fieldN, fieldNN, fieldNNN, Nat.shiftRight_eq_div_pow, hp]

/-! ## The word from its fields, one equation per format -/

theorem fieldP_append_fieldNNN (w : Word) : fieldP w ++ fieldNNN w = w :=
  (BitVec.extractLsb'_append_extractLsb'_eq_extractLsb' (x := w) (by decide)).trans BitVec.extractLsb'_eq_self

theorem fieldX_append_fieldNN (w : Word) : fieldX w ++ fieldNN w = fieldNNN w :=
  BitVec.extractLsb'_append_extractLsb'_eq_extractLsb' (x := w) (by decide)

theorem fieldY_append_fieldN (w : Word) : fieldY w ++ fieldN w = fieldNN w :=
  BitVec.extractLsb'_append_extractLsb'_eq_extractLsb' (x := w) (by decide)

/-- Format XNN is format NNN with the operand in two parts. -/
theorem append_xnn (p x : Nibble) (nn : Byte) : p ++ x ++ nn = p ++ (x ++ nn) := BitVec.append_assoc

/-- Format XYN is format XNN with the low byte in two parts. -/
theorem append_xyn (p x y n : Nibble) : p ++ x ++ y ++ n = p ++ x ++ (y ++ n) := BitVec.append_assoc

theorem append_fields_xnn (w : Word) : fieldP w ++ fieldX w ++ fieldNN w = w := by
  rw [append_xnn, fieldX_append_fieldNN, fieldP_append_fieldNNN]

theorem append_fields_xyn (w : Word) : fieldP w ++ fieldX w ++ fieldY w ++ fieldN w = w := by
  rw [append_xyn, fieldY_append_fieldN, append_fields_xnn]

@[simp] theorem fieldNNN_xnn (p x : Nibble) (nn : Byte) : fieldNNN (p ++ x ++ nn) = x ++ nn := by
  rw [append_xnn, fieldNNN_nnn]

/-- A word of format XYN with each field shifted to its place. -/
theorem append_xyn_eq_or (p x y n : Nibble) : p ++ x ++ y ++ n =
    p.setWidth 16 <<< 12 ||| x.setWidth 16 <<< 8 ||| y.setWidth 16 <<< 4 ||| n.setWidth 16 :=
  (BitVec.setWidth_eq (p ++ x ++ y ++ n)).symm.trans BitVec.setWidth_append_append_append_eq_shiftLeft_setWidth_or

end Sys2Proof
end

section
/-! The decoder on the words of the encoder (30_encoding.md R84, R87, R90). -/

namespace Sys2Proof

/-! ## The 0-family: CLS, RET and SYS -/

/-- The operands SYS cannot carry, told by the fields of the word (41_control_flow.md R130). -/
theorem sysReserved_fieldNNN {mode : DecodeMode} {w : Word} : sysReserved mode (fieldNNN w) = true ↔
    (fieldNN w = 0xE0#8 ∨ fieldNN w = 0xEE#8) ∧ (fieldX w = 0x0#4 ∨ mode = .loose) := by
  have hnn : (fieldNNN w).extractLsb' 0 8 = fieldNN w := by rw [← fieldNN_nnn (fieldP w), fieldP_append_fieldNNN]
  have hx : (fieldNNN w).extractLsb' 8 4 = fieldX w := by rw [← fieldX_nnn (fieldP w), fieldP_append_fieldNNN]
  simp [sysReserved, hnn, hx]

/-- The strict decoder reserves the words of CLS and RET alone. -/
theorem cls_or_ret_of_sysReserved {w : Word} (hp : fieldP w = 0x0#4) (h : sysReserved .strict (fieldNNN w) = true) :
    (fieldNN w = 0xE0#8 ∧ 0x00E0#16 = w) ∨ (fieldNN w = 0xEE#8 ∧ 0x00EE#16 = w) := by
  obtain ⟨hnn, hx⟩ := sysReserved_fieldNNN.1 h
  have hx : fieldX w = 0x0#4 := by simpa using hx
  have hw := append_fields_xnn w
  rw [hp, hx] at hw
  rcases hnn with hnn | hnn <;> rw [hnn] at hw
  · exact .inl ⟨hnn, hw⟩
  · exact .inr ⟨hnn, hw⟩

/-- The 0-family decodes to SYS but for the reserved operands. -/
theorem decodeFamily0_eq_ite (mode : DecodeMode) (w : Word) : decodeFamily0 mode w =
    if sysReserved mode (fieldNNN w) then (if fieldNN w = 0xE0#8 then .cls else .ret) else .sys (fieldNNN w) := by
  simp only [sysReserved_fieldNNN]
  unfold decodeFamily0
  split
  case h_3 hcls hret => rw [if_neg fun h => h.1.elim hcls hret]
  all_goals simp [*]

theorem decodeIn_of_family0 {w : Word} (h : fieldP w = 0x0#4) (mode : DecodeMode) :
    decodeIn mode w = .ok (decodeFamily0 mode w) := by
  simp [decodeIn, h]

/-! ## Encode, then decode -/

theorem decodeIn_encode {mode : DecodeMode} {i : Instr} (h : wellFormedIn mode i = true) :
    decodeIn mode (encode i) = .ok i := by
  cases i
  case cls | ret => rfl
  case sys nnn =>
    have hfree : sysReserved mode nnn = false := by simpa [wellFormedIn] using h
    simp [decodeIn, encode, decodeFamily0_eq_ite, hfree]
  case skp | sknp => simp [decodeIn, encode, decodeFamilyE]
  case ldVxDt | ldVxK | ldDtVx | ldStVx | addIVx | ldFVx | ldBVx | ldMemVx | ldVxMem =>
    simp [decodeIn, encode, decodeFamilyF]
  case ldReg | orReg | andReg | xorReg | addReg | subReg | shr | subnReg | shl =>
    simp [decodeIn, encode, decodeFamily8]
  all_goals simp [decodeIn, encode]

/-- Every encoding decodes to something: that of a reserved SYS to CLS or RET. -/
theorem exists_decodeIn_encode (mode : DecodeMode) (i : Instr) : ∃ j, decodeIn mode (encode i) = .ok j := by
  by_cases h : wellFormedIn mode i = true
  · exact ⟨i, decodeIn_encode h⟩
  · cases i
    case sys nnn => exact ⟨_, decodeIn_of_family0 (fieldP_nnn _ _) mode⟩
    all_goals exact absurd rfl h

theorem decode_encodeBytes_append {i : Instr} (h : decodeWord (encode i) = .ok i) (rest : List Byte) :
    decode (encodeBytes i ++ rest) = .ok (i, rest) := by
  simp [encodeBytes, decode, h]

/-- Settles O1: the word law at this machine's decode mode, and the byte law from it. -/
theorem decodeOfEncodeIsIdentity : Obligations.DecodeOfEncodeIsIdentity := by
  unfold Obligations.DecodeOfEncodeIsIdentity
  intro i rest hwf
  have hword : decodeWord (encode i) = .ok i := decodeIn_encode hwf
  exact ⟨hword, decode_encodeBytes_append hword rest⟩

/-- Settles O6: each word is a literal of the map. -/
theorem sampleWordsDecode : Obligations.SampleWordsDecode := by
  unfold Obligations.SampleWordsDecode
  decide

/-! ## Decode, then encode: what the strict decoder answers is the instruction the word encodes -/

/-- A well-formed instruction whose encoding is this word. -/
def EncodesStrictly (i : Instr) (w : Word) : Prop := encode i = w ∧ wellFormedIn .strict i = true

theorem decodeFamily0_encodesStrictly {w : Word} (hp : fieldP w = 0x0#4) :
    EncodesStrictly (decodeFamily0 .strict w) w := by
  rw [decodeFamily0_eq_ite]
  by_cases hres : sysReserved .strict (fieldNNN w) = true
  · rw [if_pos hres]
    rcases cls_or_ret_of_sysReserved hp hres with ⟨hnn, hw⟩ | ⟨hnn, hw⟩ <;> rw [hnn] <;> exact ⟨hw, rfl⟩
  · have hw := fieldP_append_fieldNNN w
    rw [hp] at hw
    rw [if_neg hres]
    exact ⟨hw, by simp [wellFormedIn, hres]⟩

theorem encodesStrictly_of_decodeIn {w : Word} {i : Instr} (h : decodeIn .strict w = .ok i) : EncodesStrictly i w := by
  have hnnn := fieldP_append_fieldNNN w
  have hxnn := append_fields_xnn w
  have hxyn := append_fields_xyn w
  unfold decodeIn at h
  split at h <;> rename_i hp
  case h_17 => cases h
  all_goals rw [hp] at hnnn hxnn hxyn
  case h_1 => cases h; exact decodeFamily0_encodesStrictly hp
  case h_9 =>
    unfold decodeFamily8 at h
    split at h <;> cases h
    all_goals
      rw [‹fieldN w = _›] at hxyn
      exact ⟨hxyn, rfl⟩
  case h_15 | h_16 =>
    simp only [decodeFamilyE, decodeFamilyF] at h
    split at h <;> cases h
    all_goals
      rw [‹fieldNN w = _›] at hxnn
      exact ⟨hxnn, rfl⟩
  case h_6 | h_10 =>
    split at h <;> cases h
    have hn : fieldN w = 0x0#4 := by simp_all
    rw [hn] at hxyn
    exact ⟨hxyn, rfl⟩
  all_goals cases h
  case h_2 | h_3 | h_11 | h_12 => exact ⟨hnnn, rfl⟩
  case h_14 => exact ⟨hxyn, rfl⟩
  all_goals exact ⟨hxnn, rfl⟩

end Sys2Proof
end

section
/-! The words no instruction has and the ambiguous band (30_encoding.md R85-R87). -/

namespace Sys2Proof

/-- The values of a nibble: what the decoder's default cases leave over. -/
theorem mem_nibbles (n : Nibble) : n ∈ [0x0#4, 0x1#4, 0x2#4, 0x3#4, 0x4#4, 0x5#4, 0x6#4, 0x7#4, 0x8#4, 0x9#4, 0xA#4,
    0xB#4, 0xC#4, 0xD#4, 0xE#4, 0xF#4] := by
  revert n
  decide

theorem decodeFamily8_eq_error {w : Word} {e : DecodeError} : decodeFamily8 w = .error e ↔
    e = .unrecognized w ∧ fieldN w ∈ [0x8#4, 0x9#4, 0xA#4, 0xB#4, 0xC#4, 0xD#4, 0xF#4] := by
  unfold decodeFamily8
  split
  case h_10 =>
    have := mem_nibbles (fieldN w)
    simp_all [eq_comm (a := e)]
  all_goals simp [*]

theorem decodeFamilyE_eq_error {w : Word} {e : DecodeError} : decodeFamilyE w = .error e ↔
    e = .unrecognized w ∧ fieldNN w ∉ [0x9E#8, 0xA1#8] := by
  unfold decodeFamilyE
  split <;> simp_all [eq_comm (a := e)]

theorem decodeFamilyF_eq_error {w : Word} {e : DecodeError} : decodeFamilyF w = .error e ↔
    e = .unrecognized w ∧
      fieldNN w ∉ [0x07#8, 0x0A#8, 0x15#8, 0x18#8, 0x1E#8, 0x29#8, 0x33#8, 0x55#8, 0x65#8] := by
  unfold decodeFamilyF
  split <;> simp_all [eq_comm (a := e)]

/-- The list of R86, by the fields of the word; a loose decoder takes the 5- and 9-family words of the band (R87). -/
def UnrecognizedIn (mode : DecodeMode) (w : Word) : Prop :=
  ((fieldP w = 0x5#4 ∨ fieldP w = 0x9#4) ∧ fieldN w ≠ 0x0#4 ∧ mode = .strict) ∨
  (fieldP w = 0x8#4 ∧ fieldN w ∈ [0x8#4, 0x9#4, 0xA#4, 0xB#4, 0xC#4, 0xD#4, 0xF#4]) ∨
  (fieldP w = 0xE#4 ∧ fieldNN w ∉ [0x9E#8, 0xA1#8]) ∨
  (fieldP w = 0xF#4 ∧ fieldNN w ∉ [0x07#8, 0x0A#8, 0x15#8, 0x18#8, 0x1E#8, 0x29#8, 0x33#8, 0x55#8, 0x65#8])

/-- The decoder's one error is "unrecognized", and it answers it on the words of that list. -/
theorem decodeIn_eq_error {mode : DecodeMode} {w : Word} {e : DecodeError} :
    decodeIn mode w = .error e ↔ e = .unrecognized w ∧ UnrecognizedIn mode w := by
  unfold decodeIn UnrecognizedIn
  split
  case h_6 hp | h_10 hp => cases mode <;> by_cases hn : fieldN w = 0x0#4 <;> simp [hp, hn, eq_comm (a := e)]
  case h_9 hp => rw [decodeFamily8_eq_error]; simp [hp]
  case h_15 hp => rw [decodeFamilyE_eq_error]; simp [hp]
  case h_16 hp => rw [decodeFamilyF_eq_error]; simp [hp]
  case h_17 =>
    have := mem_nibbles (fieldP w)
    simp_all
  all_goals simp [*]

theorem decodeIn_total (mode : DecodeMode) (w : Word) :
    (∃ i, decodeIn mode w = .ok i) ∨ decodeIn mode w = .error (.unrecognized w) := by
  cases h : decodeIn mode w with
  | ok i => exact .inl ⟨i, rfl⟩
  | error e => exact .inr (by rw [(decodeIn_eq_error.1 h).1])

/-! ## The ambiguous band (R87) -/

/-- Outside the band both decoders reserve the same words of the 0-family. -/
theorem sysReserved_strict_eq_loose {w : Word} (hp : fieldP w = 0x0#4) (h : inBand w = false) :
    sysReserved .strict (fieldNNN w) = sysReserved .loose (fieldNNN w) := by
  rw [Bool.eq_iff_iff, sysReserved_fieldNNN, sysReserved_fieldNNN]
  by_cases hx : fieldX w = 0x0#4 <;> simp_all [inBand]

theorem decodeIn_strict_eq_loose {w : Word} (h : inBand w = false) : decodeIn .strict w = decodeIn .loose w := by
  by_cases h0 : fieldP w = 0x0#4
  · rw [decodeIn_of_family0 h0, decodeIn_of_family0 h0, decodeFamily0_eq_ite, decodeFamily0_eq_ite,
      sysReserved_strict_eq_loose h0 h]
  · unfold decodeIn
    split
    case h_1 => contradiction
    case h_6 hp | h_10 hp =>
      have hn : fieldN w = 0x0#4 := by simpa [inBand, hp] using h
      simp [hn]
    all_goals rfl

/-- Settles O3: outside the band by the word's family; inside it by the fields of the words written out. -/
theorem bandDecodesByParameter : Obligations.BandDecodesByParameter := by
  unfold Obligations.BandDecodesByParameter
  refine ⟨fun _ => decodeIn_strict_eq_loose, fun x y n hn => ?_, fun x hx => ?_⟩
  · simp [decodeIn, hn]
  · simp [decodeIn, decodeFamily0, hx]

/-! ## No-ops (R86) -/

/-- The 0-family but for CLS and RET is SYS (R130). -/
theorem decodeIn_strict_sys {w : Word} (hp : fieldP w = 0x0#4) (hcls : w ≠ 0x00E0#16) (hret : w ≠ 0x00EE#16) :
    decodeIn .strict w = .ok (.sys (fieldNNN w)) := by
  have hfree : ¬ sysReserved .strict (fieldNNN w) = true := fun hres =>
    (cls_or_ret_of_sysReserved hp hres).elim (fun h => hcls h.2.symm) (fun h => hret h.2.symm)
  rw [decodeIn_of_family0 hp, decodeFamily0_eq_ite, if_neg hfree]

end Sys2Proof

namespace Sys2Proof.Machine

/-- A step on an unrecognized word or a SYS makes the fetch advance alone. -/
theorem step_of_noOp {s : State} {w : Word} (hs : s.faulted = false) (hw : s.fetch = some w)
    (hd : decodeWord w = .error (.unrecognized w) ∨ ∃ nnn, decodeWord w = .ok (.sys nnn)) :
    step s = complete s.advance := by
  rcases hd with hd | ⟨nnn, hd⟩
  · exact step_of_error hs hw hd
  · exact step_of_ok hs hw hd

/-- Settles O4: the decoder's errors are the list of R86, and it answers SYS on the rest of the 0-family. -/
theorem unrecognizedWordsAreNoOps : Obligations.UnrecognizedWordsAreNoOps := by
  unfold Obligations.UnrecognizedWordsAreNoOps
  refine ⟨decodeIn_total, fun w => ?_, fun w => decodeIn_strict_sys, fun s w hs hw hd => ?_⟩
  · simpa [UnrecognizedIn] using decodeIn_eq_error (mode := .strict) (w := w) (e := .unrecognized w)
  · rw [step_of_noOp hs hw hd, complete_eq]; rfl

end Sys2Proof.Machine
end

section
/-! The opcode map of R84 (30_encoding.md): each row's words are the encodings of its instruction, two rows meet in CLS
and RET alone, and the strict decoder answers the first row. -/

namespace Sys2Proof

/-- The word has the fixed bits of row k of the map. -/
def HasRow (k : Nat) (w : Word) : Prop := ∃ row, opcodeMap[k]? = some row ∧ w &&& row.2 = row.1

/-! ## The fixed bits of a row, read field by field -/

/-- A field the mask fixes whole is the match word's. -/
theorem field_of_and {w m c : Word} {a k : Nat} (h : w &&& m = c) (hm : m.extractLsb' a k = BitVec.allOnes k) :
    w.extractLsb' a k = c.extractLsb' a k := by
  rw [← h, BitVec.extractLsb'_and, hm, BitVec.and_allOnes]

/-! The converses of `Laws.fixed_nnn` and its siblings: a word with a row's fixed bits is its format filled in. -/

theorem eq_nnn_of_fixed {w : Word} {p : Nibble} (h : w &&& 0xF000#16 = p ++ 0x000#12) : p ++ fieldNNN w = w := by
  have hp : fieldP w = p := (field_of_and h rfl).trans (fieldP_nnn _ _)
  rw [← hp, fieldP_append_fieldNNN]

theorem eq_xnn_of_fixed {w : Word} {p : Nibble} (h : w &&& 0xF000#16 = p ++ 0x0#4 ++ 0x00#8) :
    p ++ fieldX w ++ fieldNN w = w := by
  have hp : fieldP w = p := (field_of_and h rfl).trans (fieldP_xnn _ _ _)
  rw [← hp, append_fields_xnn]

theorem eq_xyn_of_fixed {w : Word} {p : Nibble} (h : w &&& 0xF000#16 = p ++ 0x0#4 ++ 0x0#4 ++ 0x0#4) :
    p ++ fieldX w ++ fieldY w ++ fieldN w = w := by
  have hp : fieldP w = p := (field_of_and h rfl).trans (fieldP_xyn _ _ _ _)
  rw [← hp, append_fields_xyn]

theorem eq_xy_of_fixed {w : Word} {p f : Nibble} (h : w &&& 0xF00F#16 = p ++ 0x0#4 ++ 0x0#4 ++ f) :
    p ++ fieldX w ++ fieldY w ++ f = w := by
  have hp : fieldP w = p := (field_of_and h rfl).trans (fieldP_xyn _ _ _ _)
  have hn : fieldN w = f := (field_of_and h rfl).trans (fieldN_xyn _ _ _ _)
  rw [← hp, ← hn, append_fields_xyn]

theorem eq_x_of_fixed {w : Word} {p : Nibble} {f : Byte} (h : w &&& 0xF0FF#16 = p ++ 0x0#4 ++ f) :
    p ++ fieldX w ++ f = w := by
  have hp : fieldP w = p := (field_of_and h rfl).trans (fieldP_xnn _ _ _)
  have hnn : fieldNN w = f := (field_of_and h rfl).trans (fieldNN_xnn _ _ _)
  rw [← hp, ← hnn, append_fields_xnn]

theorem eq_of_fixed {w c : Word} (h : w &&& 0xFFFF#16 = c) : c = w := h.symm.trans BitVec.and_allOnes

/-! ## A row's words -/

/-- An encoding has the fixed bits of its instruction's row: the laws of the instructions, gathered. -/
theorem encode_hasRow : ∀ i : Instr, HasRow (rowOf i) (encode i)
  | .cls => Laws.OpcodeRow.cls
  | .ret => Laws.OpcodeRow.ret
  | .sys _ => Laws.OpcodeRow.sys _
  | .jp _ => Laws.OpcodeRow.jp _
  | .call _ => Laws.OpcodeRow.call _
  | .seByte _ _ => Laws.OpcodeRow.seByte _ _
  | .sneByte _ _ => Laws.OpcodeRow.sneByte _ _
  | .seReg _ _ => Laws.OpcodeRow.seReg _ _
  | .ldByte _ _ => Laws.OpcodeRow.ldByte _ _
  | .addByte _ _ => Laws.OpcodeRow.addByte _ _
  | .ldReg _ _ => Laws.OpcodeRow.ldReg _ _
  | .orReg _ _ => Laws.OpcodeRow.orReg _ _
  | .andReg _ _ => Laws.OpcodeRow.andReg _ _
  | .xorReg _ _ => Laws.OpcodeRow.xorReg _ _
  | .addReg _ _ => Laws.OpcodeRow.addReg _ _
  | .subReg _ _ => Laws.OpcodeRow.subReg _ _
  | .shr _ _ => Laws.OpcodeRow.shr _ _
  | .subnReg _ _ => Laws.OpcodeRow.subnReg _ _
  | .shl _ _ => Laws.OpcodeRow.shl _ _
  | .sneReg _ _ => Laws.OpcodeRow.sneReg _ _
  | .ldI _ => Laws.OpcodeRow.ldI _
  | .jpV0 _ => Laws.OpcodeRow.jpV0 _
  | .rnd _ _ => Laws.OpcodeRow.rnd _ _
  | .drw _ _ _ => Laws.OpcodeRow.drw _ _ _
  | .skp _ => Laws.OpcodeRow.skp _
  | .sknp _ => Laws.OpcodeRow.sknp _
  | .ldVxDt _ => Laws.OpcodeRow.ldVxDt _
  | .ldVxK _ => Laws.OpcodeRow.ldVxK _
  | .ldDtVx _ => Laws.OpcodeRow.ldDtVx _
  | .ldStVx _ => Laws.OpcodeRow.ldStVx _
  | .addIVx _ => Laws.OpcodeRow.addIVx _
  | .ldFVx _ => Laws.OpcodeRow.ldFVx _
  | .ldBVx _ => Laws.OpcodeRow.ldBVx _
  | .ldMemVx _ => Laws.OpcodeRow.ldMemVx _
  | .ldVxMem _ => Laws.OpcodeRow.ldVxMem _

/-- A word with the fixed bits of a row is the encoding of an instruction of that row: its fields fill the format in. -/
theorem exists_encode_of_hasRow {w : Word} : ∀ {k : Nat}, HasRow k w → ∃ i, rowOf i = k ∧ encode i = w
  | 0, ⟨_, rfl, h⟩ => ⟨.cls, rfl, eq_of_fixed h⟩
  | 1, ⟨_, rfl, h⟩ => ⟨.ret, rfl, eq_of_fixed h⟩
  | 2, ⟨_, rfl, h⟩ => ⟨.sys _, rfl, eq_nnn_of_fixed h⟩
  | 3, ⟨_, rfl, h⟩ => ⟨.jp _, rfl, eq_nnn_of_fixed h⟩
  | 4, ⟨_, rfl, h⟩ => ⟨.call _, rfl, eq_nnn_of_fixed h⟩
  | 5, ⟨_, rfl, h⟩ => ⟨.seByte _ _, rfl, eq_xnn_of_fixed h⟩
  | 6, ⟨_, rfl, h⟩ => ⟨.sneByte _ _, rfl, eq_xnn_of_fixed h⟩
  | 7, ⟨_, rfl, h⟩ => ⟨.seReg _ _, rfl, eq_xy_of_fixed h⟩
  | 8, ⟨_, rfl, h⟩ => ⟨.ldByte _ _, rfl, eq_xnn_of_fixed h⟩
  | 9, ⟨_, rfl, h⟩ => ⟨.addByte _ _, rfl, eq_xnn_of_fixed h⟩
  | 10, ⟨_, rfl, h⟩ => ⟨.ldReg _ _, rfl, eq_xy_of_fixed h⟩
  | 11, ⟨_, rfl, h⟩ => ⟨.orReg _ _, rfl, eq_xy_of_fixed h⟩
  | 12, ⟨_, rfl, h⟩ => ⟨.andReg _ _, rfl, eq_xy_of_fixed h⟩
  | 13, ⟨_, rfl, h⟩ => ⟨.xorReg _ _, rfl, eq_xy_of_fixed h⟩
  | 14, ⟨_, rfl, h⟩ => ⟨.addReg _ _, rfl, eq_xy_of_fixed h⟩
  | 15, ⟨_, rfl, h⟩ => ⟨.subReg _ _, rfl, eq_xy_of_fixed h⟩
  | 16, ⟨_, rfl, h⟩ => ⟨.shr _ _, rfl, eq_xy_of_fixed h⟩
  | 17, ⟨_, rfl, h⟩ => ⟨.subnReg _ _, rfl, eq_xy_of_fixed h⟩
  | 18, ⟨_, rfl, h⟩ => ⟨.shl _ _, rfl, eq_xy_of_fixed h⟩
  | 19, ⟨_, rfl, h⟩ => ⟨.sneReg _ _, rfl, eq_xy_of_fixed h⟩
  | 20, ⟨_, rfl, h⟩ => ⟨.ldI _, rfl, eq_nnn_of_fixed h⟩
  | 21, ⟨_, rfl, h⟩ => ⟨.jpV0 _, rfl, eq_nnn_of_fixed h⟩
  | 22, ⟨_, rfl, h⟩ => ⟨.rnd _ _, rfl, eq_xnn_of_fixed h⟩
  | 23, ⟨_, rfl, h⟩ => ⟨.drw _ _ _, rfl, eq_xyn_of_fixed h⟩
  | 24, ⟨_, rfl, h⟩ => ⟨.skp _, rfl, eq_x_of_fixed h⟩
  | 25, ⟨_, rfl, h⟩ => ⟨.sknp _, rfl, eq_x_of_fixed h⟩
  | 26, ⟨_, rfl, h⟩ => ⟨.ldVxDt _, rfl, eq_x_of_fixed h⟩
  | 27, ⟨_, rfl, h⟩ => ⟨.ldVxK _, rfl, eq_x_of_fixed h⟩
  | 28, ⟨_, rfl, h⟩ => ⟨.ldDtVx _, rfl, eq_x_of_fixed h⟩
  | 29, ⟨_, rfl, h⟩ => ⟨.ldStVx _, rfl, eq_x_of_fixed h⟩
  | 30, ⟨_, rfl, h⟩ => ⟨.addIVx _, rfl, eq_x_of_fixed h⟩
  | 31, ⟨_, rfl, h⟩ => ⟨.ldFVx _, rfl, eq_x_of_fixed h⟩
  | 32, ⟨_, rfl, h⟩ => ⟨.ldBVx _, rfl, eq_x_of_fixed h⟩
  | 33, ⟨_, rfl, h⟩ => ⟨.ldMemVx _, rfl, eq_x_of_fixed h⟩
  | 34, ⟨_, rfl, h⟩ => ⟨.ldVxMem _, rfl, eq_x_of_fixed h⟩

/-! ## Where two rows meet -/

theorem hasRow_iff {k : Nat} {w : Word} :
    HasRow k w ↔ ∃ hk : k < opcodeMap.length, w &&& opcodeMap[k].2 = opcodeMap[k].1 := by
  simp [HasRow, List.getElem?_eq_some_iff]

/-- Two rows agree on the bits both fix for CLS or RET and SYS alone. -/
theorem opcodeMap_overlap : ∀ j k : Fin opcodeMap.length, j < k →
    opcodeMap[j.val].1 &&& opcodeMap[k.val].2 = opcodeMap[k.val].1 &&& opcodeMap[j.val].2 →
    (j.val = 0 ∨ j.val = 1) ∧ k.val = 2 := by
  decide

/-- A word with the fixed bits of both rows makes them agree. -/
theorem hasRow_overlap {j k : Nat} {w : Word} (hjk : j < k) (hj : HasRow j w) (hk : HasRow k w) :
    (j = 0 ∨ j = 1) ∧ k = 2 := by
  obtain ⟨hjlen, hwj⟩ := hasRow_iff.1 hj
  obtain ⟨hklen, hwk⟩ := hasRow_iff.1 hk
  refine opcodeMap_overlap ⟨j, hjlen⟩ ⟨k, hklen⟩ hjk ?_
  rw [← hwj, ← hwk, BitVec.and_assoc, BitVec.and_assoc, BitVec.and_comm opcodeMap[j].2]

/-! ## The first row -/

theorem firstRow_eq_some {w : Word} {k : Nat} : firstRow w = some k ↔ HasRow k w ∧ ∀ j < k, ¬ HasRow j w := by
  simp only [firstRow, List.findIdx?_eq_some_iff_getElem, hasRow_iff, beq_iff_eq]
  constructor
  · rintro ⟨hk, hw, hbefore⟩
    exact ⟨⟨hk, hw⟩, fun j hj ⟨_, hj'⟩ => hbefore j hj hj'⟩
  · rintro ⟨⟨hk, hw⟩, hbefore⟩
    exact ⟨hk, hw, fun j hj hj' => hbefore j hj ⟨hj.trans hk, hj'⟩⟩

theorem firstRow_eq_none {w : Word} (h : ∀ k, ¬ HasRow k w) : firstRow w = none := by
  refine List.findIdx?_eq_none_iff.2 fun row hrow => ?_
  obtain ⟨k, hk⟩ := List.mem_iff_getElem?.1 hrow
  exact beq_false_of_ne fun hw => h k ⟨row, hk, hw⟩

theorem wellFormedIn_of_rowOf_ne {i : Instr} (mode : DecodeMode) (h : rowOf i ≠ 2) : wellFormedIn mode i = true := by
  cases i
  case sys => exact absurd rfl h
  all_goals rfl

/-- The row of a well-formed instruction is the first its encoding has: an earlier one would be that of CLS or RET, and
the word would decode to that. -/
theorem firstRow_encode {i : Instr} (h : wellFormedIn .strict i = true) : firstRow (encode i) = some (rowOf i) := by
  refine firstRow_eq_some.2 ⟨encode_hasRow i, fun j hj hrow => ?_⟩
  obtain ⟨hj01, -⟩ := hasRow_overlap hj hrow (encode_hasRow i)
  obtain ⟨i', rfl, henc⟩ := exists_encode_of_hasRow hrow
  have hdec := decodeIn_encode (wellFormedIn_of_rowOf_ne .strict (i := i') (by omega))
  rw [henc, decodeIn_encode h] at hdec
  cases hdec
  exact lt_irrefl _ hj

/-- Settles O2: what the decoder answers is well formed and encodes the word, so its row is the first; a word with any
row is an encoding, so the decoder answers an instruction. -/
theorem decoderFollowsOpcodeMap : Obligations.DecoderFollowsOpcodeMap := by
  unfold Obligations.DecoderFollowsOpcodeMap
  refine ⟨fun w => ?_, fun j k w => hasRow_overlap⟩
  cases h : decodeIn .strict w with
  | ok i =>
    obtain ⟨rfl, hwf⟩ := encodesStrictly_of_decodeIn h
    exact ⟨firstRow_encode hwf, rfl⟩
  | error e =>
    refine ⟨(decodeIn_eq_error.1 h).1, firstRow_eq_none fun k hk => ?_⟩
    obtain ⟨i, -, rfl⟩ := exists_encode_of_hasRow hk
    obtain ⟨j, hj⟩ := exists_decodeIn_encode .strict i
    rw [h] at hj
    cases hj

end Sys2Proof
end

section
/-! The register move (42_alu.md R154, 30_encoding.md R88). -/

namespace Sys2Proof.Machine

/-- The move changes the register file alone. -/
theorem State.moveUnlisted_eq (u : Unlisted) (x y : RegIdx) (s : State) :
    s.moveUnlisted u x y = { s with regs := (s.moveUnlisted u x y).regs } := by
  cases u <;> rfl

/-- What the move leaves in each register. -/
theorem State.moveUnlisted_v (u : Unlisted) (x y : RegIdx) (s : State) (r : RegIdx) :
    (s.moveUnlisted u x y).v r = if r = x ∧ u = .standard then s.v y else s.v r := by
  cases u <;> simp [State.moveUnlisted]

/-- Settles O23: under either value the move writes no register but Vx. -/
theorem registerMoveByParameter : Obligations.RegisterMoveByParameter := by
  unfold Obligations.RegisterMoveByParameter
  intro x y s
  refine ⟨by simp [encode, append_xyn_eq_or], _, rfl, ?_, fun r hr => ?_, ?_⟩
  · simp [State.moveUnlisted_v]
  · have hne : r ≠ x := by simpa using hr
    simp [State.moveUnlisted_v, hne]
  · rw [State.moveUnlisted_eq]; rfl

end Sys2Proof.Machine
end

section
/-! The step on bytes that decode (40_pipeline.md R100, R104, R105). -/

namespace Sys2Proof.Machine

/-- The two bytes of a word decode as the word does, with nothing left over (30_encoding.md R80). -/
theorem decode_pair_eq_ok {hi lo : Byte} {i : Instr} :
    decode [hi, lo] = .ok (i, []) ↔ decodeWord (bigEndian hi lo) = .ok i := by
  rw [decode]
  cases decodeWord (bigEndian hi lo) <;> simp

/-- Settles O7: the range of PC makes the fetch answer the word of the two bytes, and that word decodes to i. -/
theorem stepRunsDecodedInstruction : Obligations.StepRunsDecodedInstruction := by
  unfold Obligations.StepRunsDecodedInstruction
  intro s i hs hlow hhigh hd
  exact step_of_ok hs (State.fetch_eq_some.2 ⟨⟨hlow, hhigh⟩, rfl⟩) (decode_pair_eq_ok.1 hd)

end Sys2Proof.Machine
end

section
/-! The status of a step does not reach the next one (40_pipeline.md R107): what an instruction reads decides all it
writes but the pieces no instruction reads, and those are kept or overwritten. -/

namespace Sys2Proof.Machine

theorem Piece.Same.symm {p : Piece} {s t : State} (h : p.Same s t) : p.Same t s := by
  cases p <;> exact Eq.symm h

/-- Two states that agree on a piece still do after an instruction that does not write it. -/
theorem exec_same_of_same {i : Instr} {s s' t t' : State} {p : Piece} (h : exec i s = .next t)
    (h' : exec i s' = .next t') (hs : p.Same s s') (hp : p ∉ writtenBy i) (hf : p ≠ .faulted) : p.Same t t' :=
  ((exec_same h hp hf).symm.trans hs).trans (exec_same h' hp hf)

/-- Two states equal once blanked are equal if they agree on what was blanked out. -/
theorem State.eq_of_blanked_eq {s t : State} (hblank : s.blanked = t.blanked) (hst : s.st = t.st)
    (hsnd : s.sndDb = t.sndDb) (hredraw : s.needsRedraw = t.needsRedraw)
    (hnonblank : s.frameNonblank = t.frameNonblank) (hstatus : s.status = t.status)
    (hfaulted : s.faulted = t.faulted) : s = t := by
  cases s
  cases t
  simp_all [State.blanked]

/-- An instruction that leaves the sound timer and the display flags as they are does the same under every status: the
outcomes show the same once blanked, and what is blanked out is kept from entry or follows from the status. -/
theorem exec_of_status_of_keeps {i : Instr} (hst : .st ∉ writtenBy i) (hredraw : .needsRedraw ∉ writtenBy i)
    (hnonblank : .frameNonblank ∉ writtenBy i) (s : State) (e : Status) :
    exec i { s with status := e } = exec i s := by
  obtain ⟨_, _, ht, _⟩ := exec_ends i s
  obtain ⟨_, _, hu, _⟩ := exec_ends i { s with status := e }
  have hobs : observed (exec i { s with status := e }) = observed (exec i s) := by
    rw [← observed_exec_blanked, ← observed_exec_blanked i s]
    rfl
  rw [ht, hu, observed, observed, Option.some.injEq, Prod.mk.injEq] at hobs
  obtain ⟨hblank, hstatus⟩ := hobs
  rw [ht, hu, State.eq_of_blanked_eq hblank
    (exec_same_of_same (p := .st) ht hu rfl hst (by decide))
    (exec_same_of_same (p := .sndDb) ht hu rfl (sndDb_not_mem_writtenBy i) (by decide))
    (exec_same_of_same (p := .needsRedraw) ht hu rfl hredraw (by decide))
    (exec_same_of_same (p := .frameNonblank) ht hu rfl hnonblank (by decide)) hstatus
    (by rw [exec_faulted hu, hstatus, exec_faulted ht])]

/-- No instruction's outcome depends on the status it is entered with. -/
theorem exec_of_status (i : Instr) (s : State) (e : Status) : exec i { s with status := e } = exec i s := by
  cases i
  case cls | ldStVx => rfl
  case drw x y n =>
    have hload : State.loadBlock { s with status := e } n.toNat = s.loadBlock n.toNat := rfl
    simp only [exec, execDrw, hload]
    cases s.loadBlock n.toNat <;> rfl
  all_goals exact exec_of_status_of_keeps (by simp [writtenBy]) (by simp [writtenBy]) (by simp [writtenBy]) s e

/-- Nor does the outcome of a step taken with the mark clear. -/
theorem step_of_status {s : State} (hs : s.faulted = false) (e : Status) : step { s with status := e } = step s := by
  have hs' : ({ s with status := e } : State).faulted = false := hs
  have hfetch : State.fetch { s with status := e } = s.fetch := rfl
  rcases hf : s.fetch with _ | w
  · rw [step_of_none hs hf, step_of_none hs' (hfetch.trans hf)]
    rfl
  · cases hd : decodeWord w with
    | ok i =>
      rw [step_of_ok hs hf hd, step_of_ok hs' (hfetch.trans hf) hd]
      exact exec_of_status i s.advance e
    | error _ =>
      rw [step_of_error hs hf hd, step_of_error hs' (hfetch.trans hf) hd]
      rfl

/-- Settles O11: the step answers a state, the host's step that state's status, and no step reads the status. -/
theorem everyStepReturnsAFreshStatus : Obligations.EveryStepReturnsAFreshStatus := by
  unfold Obligations.EveryStepReturnsAFreshStatus
  intro s hs
  obtain ⟨t, ht⟩ := exists_step_next hs
  exact ⟨t, ht, by rw [transact, hostStep, ht], fun e => (step_of_status hs e).trans ht⟩

end Sys2Proof.Machine
end

section
/-! The errors: which instruction ends with which, and what the state is then (40_pipeline.md R101, R106;
60_exceptions.md R240, R242). -/

namespace Sys2Proof.Machine

/-- The status an instruction ends with, from the state it is entered with: its own error where the one check it makes
fails, and Ok otherwise. -/
def endStatus (s : State) : Instr → Status
  | .ret => if s.pop = none then .stackEmpty else .ok
  | .call _ => if s.push s.pc = none then .stackOverflow else .ok
  | .ldBVx x => if s.storeBlock (bcdDigits (s.v x)) = none then .illegalMemoryAccess else .ok
  | .ldMemVx x => if s.storeBlock (s.blockRegs x) = none then .illegalMemoryAccess else .ok
  | .ldVxMem x => if s.loadBlock (blockCount x) = none then .illegalMemoryAccess else .ok
  | .drw _ _ n => if s.loadBlock n.toNat = none then .illegalMemoryAccess else .ok
  | _ => .ok

theorem exec_status {i : Instr} {s t : State} (h : exec i s = .next t) : t.status = endStatus s i := by
  cases i
  case ret | call | drw | ldBVx | ldMemVx | ldVxMem =>
    simp only [exec, execRet, execCall, execDrw, execLdBVx, execLdMemVx, execLdVxMem] at h
    split at h <;> cases h <;> simp [endStatus, *]
  all_goals cases h; rfl

theorem endStatus_eq_stackEmpty {s : State} {i : Instr} :
    endStatus s i = .stackEmpty ↔ i = .ret ∧ s.sp.val = 0 := by
  cases i <;> simp [endStatus, ite_eq_iff, State.pop_eq_none]

theorem endStatus_eq_stackOverflow {s : State} {i : Instr} :
    endStatus s i = .stackOverflow ↔ (∃ nnn, i = .call nnn) ∧ s.sp.val = 16 := by
  cases i <;> simp [endStatus, ite_eq_iff, State.push_eq_none]

theorem endStatus_eq_illegalMemoryAccess {s : State} {i : Instr} :
    endStatus s i = .illegalMemoryAccess ↔
      (∃ x, i = .ldBVx x ∧ memSize < s.i.toNat + 3) ∨
      (∃ x, (i = .ldMemVx x ∨ i = .ldVxMem x) ∧ memSize < s.i.toNat + (x.toNat + 1)) ∨
      (∃ x y n, i = .drw x y n ∧ memSize < s.i.toNat + n.toNat) := by
  cases i <;>
    simp [endStatus, ite_eq_iff, State.storeBlock_eq_none, State.loadBlock_eq_none, bcdDigits, blockCount]

theorem endStatus_ne_outOfBounds (s : State) (i : Instr) : endStatus s i ≠ .outOfBounds := by
  cases i <;> simp [endStatus, ite_eq_iff]

/-- An instruction that ends with an error leaves all but the status and the mark as it was entered with (R106). -/
theorem exec_eq_of_error {i : Instr} {s t : State} (h : exec i s = .next t) (ht : t.status ≠ .ok) :
    t = { s with status := t.status, faulted := true } := by
  obtain ⟨s', e, rfl, hs'⟩ := exec_next h
  obtain rfl := hs' ht
  simp [State.finish, show e ≠ .ok from ht]

/-- A step reports OutOfBounds exactly where nothing can be fetched (R101). -/
theorem step_status_eq_outOfBounds {s t : State} (h : step s = .next t) :
    t.status = .outOfBounds ↔ s.fetch = none := by
  obtain ⟨_, ⟨hf, rfl⟩ | ⟨w, i, hf, _, hexec⟩ | ⟨w, e, hf, _, rfl⟩⟩ := step_next h
  · simp [hf]
  · simp [hf, exec_status hexec, endStatus_ne_outOfBounds]
  · simp [hf]

/-- A step that ends with another error leaves all but PC, moved past the instruction, the status and the mark. -/
theorem step_eq_of_error {s t : State} (h : step s = .next t) (ht : t.status ≠ .ok) (hf : s.fetch ≠ none) :
    t = { s with pc := s.pc + 2#16, status := t.status, faulted := true } := by
  obtain ⟨_, ⟨hnone, _⟩ | ⟨w, i, _, _, hexec⟩ | ⟨w, e, _, _, rfl⟩⟩ := step_next h
  · exact absurd hnone hf
  · exact exec_eq_of_error hexec ht
  · exact absurd rfl ht

/-- Settles O12: each error is a failed check, and the check says when; the step adds OutOfBounds alone. -/
theorem errorCausesAndPrecision : Obligations.ErrorCausesAndPrecision := by
  unfold Obligations.ErrorCausesAndPrecision
  refine ⟨fun i s t h => ?exec, fun s t h => ?step, rfl, rfl, rfl, rfl, rfl⟩
  case exec =>
    rw [exec_status h]
    refine ⟨endStatus_eq_stackEmpty, endStatus_eq_stackOverflow, endStatus_eq_illegalMemoryAccess,
      endStatus_ne_outOfBounds s i, fun ht => ?_⟩
    rw [← exec_status h] at ht ⊢
    exact exec_eq_of_error h ht
  case step =>
    have hf := step_status_eq_outOfBounds h
    refine ⟨?range, fun hob => ?outOfBounds, fun ht hob => step_eq_of_error h ht (hf.not.1 hob)⟩
    case range =>
      rw [hf, State.fetch_eq_none]
      simp only [progBase, pcMax]
      omega
    case outOfBounds =>
      rw [step_of_none (step_next h).1 (hf.1 hob), stepOutOfBounds, raise_eq (by decide)] at h
      cases h
      rfl

end Sys2Proof.Machine
end

section
/-! The words of the encoder written out (30_encoding.md R83): the fixed bits, and each operand shifted to its place. -/

namespace Sys2Proof

/-- A word of format NNN: the address is the low 12 bits. -/
theorem append_nnn_eq_or (p : Nibble) (nnn : Imm12) : p ++ nnn = p.setWidth 16 <<< 12 ||| nnn.setWidth 16 :=
  (BitVec.setWidth_eq (p ++ nnn)).symm.trans BitVec.setWidth_append_eq_shiftLeft_setWidth_or

/-- A word of format XNN with each field shifted to its place. -/
theorem append_xnn_eq_or (p x : Nibble) (nn : Byte) :
    p ++ x ++ nn = p.setWidth 16 <<< 12 ||| x.setWidth 16 <<< 8 ||| nn.setWidth 16 :=
  (BitVec.setWidth_eq (p ++ x ++ nn)).symm.trans BitVec.setWidth_append_append_eq_shiftLeft_setWidth_or

/-- A word of format X: its low byte is fixed like its family nibble, so the two come first. -/
theorem append_x_eq_or (p x : Nibble) (f : Byte) :
    p ++ x ++ f = p.setWidth 16 <<< 12 ||| f.setWidth 16 ||| x.setWidth 16 <<< 8 := by
  rw [append_xnn_eq_or, BitVec.or_assoc, BitVec.or_comm (x.setWidth 16 <<< 8), ← BitVec.or_assoc]

/-- Which words are SYS on this machine (41_control_flow.md R130): the band words are when the decoder is strict, and
outside the band both decoders answer the same. -/
theorem decodeWord_sys {w : Word} (hp : fieldP w = 0x0#4) (hcls : w ≠ 0x00E0#16) (hret : w ≠ 0x00EE#16)
    (hband : ¬ (Machine.decodeMode = .loose ∧ inBand w = true)) : decodeWord w = .ok (.sys (fieldNNN w)) := by
  have hstrict := decodeIn_strict_sys hp hcls hret
  unfold decodeWord
  cases hmode : Machine.decodeMode with
  | strict => exact hstrict
  | loose =>
    have hout : inBand w = false := by simpa [hmode] using hband
    exact (decodeIn_strict_eq_loose hout).symm.trans hstrict

end Sys2Proof
end

section
/-! Jumps, key skips and SYS (41_control_flow.md R121, R123, R128-R130). -/

namespace Sys2Proof.Machine

/-- Settles O18: a jump is one write of PC, and neither target needs more than 16 bits. -/
theorem jumpsSetPc : Obligations.JumpsSetPc := by
  unfold Obligations.JumpsSetPc
  intro nnn s
  exact ⟨append_nnn_eq_or 0x1#4 nnn, append_nnn_eq_or 0xB#4 nnn, ⟨_, rfl, toNat_addrOperand nnn, rfl⟩,
    ⟨_, rfl, toNat_jpV0_target nnn s, rfl⟩⟩

/-- A register value above 15 names no key (41_control_flow.md R128, R129). -/
theorem State.keyOf_eq_none {s : State} {x : RegIdx} : s.keyOf x = none ↔ 16 ≤ (s.v x).toNat :=
  Vector.getElem?_eq_none_iff

/-- Settles O20: the key test has three outcomes, held, not held and no key; each skip takes one of the first two. -/
theorem keySkips : Obligations.KeySkips := by
  unfold Obligations.KeySkips
  intro x s
  refine ⟨append_x_eq_or 0xE#4 x 0x9E#8, append_x_eq_or 0xE#4 x 0xA1#8, fun k hk => ?key, fun hout => ?noKey⟩
  case key =>
    have hkey : s.keyOf x = some s.keys[k.val] := State.keyOf_eq_some.2 ⟨k, hk, rfl⟩
    simp only [exec, execSkp, execSknp, complete_skipIf, hkey]
    cases s.keys[k.val] <;> exact ⟨rfl, rfl⟩
  case noKey =>
    have hkey : s.keyOf x = none := State.keyOf_eq_none.2 hout
    simp only [exec, execSkp, execSknp, complete_skipIf, hkey]
    exact ⟨rfl, rfl⟩

/-- Settles O21: both decoders answer SYS on such a word, and SYS is the instruction that only completes. -/
theorem sysIsNoOp : Obligations.SysIsNoOp := by
  unfold Obligations.SysIsNoOp
  exact ⟨fun w => decodeWord_sys, fun nnn s => ⟨append_nnn_eq_or 0x0#4 nnn, complete_eq s⟩⟩

end Sys2Proof.Machine
end

section
/-! Call and return (41_control_flow.md R120, R122; 10_state.md R28): what each does where it fits and where not,
and that a return undoes a call in any state that keeps the entries the call left. -/

namespace Sys2Proof.Machine

/-! ## One call, one return -/

/-- A return with an entry to pop. -/
theorem exec_ret_of_pos {s : State} (h : 0 < s.sp.val) :
    ∃ t, exec .ret s = .next t ∧ t.sp.val + 1 = s.sp.val ∧ s.stack[s.sp.val - 1]? = some t.pc ∧
      t = { s with sp := t.sp, pc := t.pc, status := .ok } := by
  have hexec : exec .ret s =
      complete ((s.setStack s.stack ⟨s.sp.val - 1, by omega⟩).setPc (s.stack[s.sp.val - 1]'(by omega))) := by
    rw [exec, execRet, State.pop_of_pos h]
  exact ⟨_, hexec, Nat.sub_add_cancel h, Vector.getElem?_eq_getElem _, rfl⟩

theorem exec_ret_of_empty {s : State} (h : s.sp.val = 0) :
    exec .ret s = .next { s with status := .stackEmpty, faulted := true } := by
  rw [exec, execRet, State.pop_eq_none.2 h]
  exact raise_eq (by decide) s

/-- A call with room for its entry. -/
theorem exec_call_of_lt (nnn : Imm12) {s : State} (h : s.sp.val < 16) :
    ∃ t, exec (.call nnn) s = .next t ∧ t.sp.val = s.sp.val + 1 ∧ t.stack[s.sp.val]? = some s.pc ∧
      (∀ k, k ≠ s.sp.val → t.stack[k]? = s.stack[k]?) ∧ t.pc.toNat = nnn.toNat ∧
      t = { s with stack := t.stack, sp := t.sp, pc := t.pc, status := .ok } := by
  have hexec : exec (.call nnn) s = complete
      ((s.setStack (s.stack.set s.sp.val s.pc h) ⟨s.sp.val + 1, by omega⟩).setPc (addrOperand nnn)) := by
    rw [exec, execCall, State.push_of_lt h]
  exact ⟨_, hexec, rfl, Vector.getElem?_set_self h, fun k hk => Vector.getElem?_set_ne h hk.symm,
    toNat_addrOperand nnn, rfl⟩

theorem exec_call_of_full (nnn : Imm12) {s : State} (h : s.sp.val = 16) :
    exec (.call nnn) s = .next { s with status := .stackOverflow, faulted := true } := by
  rw [exec, execCall, State.push_eq_none.2 h]
  exact raise_eq (by decide) s

/-- Settles O14, a clause at a time. -/
theorem returnPopsOrReportsEmpty : Obligations.ReturnPopsOrReportsEmpty := by
  unfold Obligations.ReturnPopsOrReportsEmpty
  exact ⟨rfl, fun s => ⟨exec_ret_of_pos, exec_ret_of_empty⟩⟩

/-- Settles O15, a clause at a time. -/
theorem callPushesOrReportsOverflow : Obligations.CallPushesOrReportsOverflow := by
  unfold Obligations.CallPushesOrReportsOverflow
  exact fun nnn s => ⟨append_nnn_eq_or 0x2#4 nnn, exec_call_of_lt nnn, exec_call_of_full nnn⟩

/-! ## A call and its return -/

/-- The same SP, and the same entries in use: what a call and its return need to agree on. -/
def SameEntries (s t : State) : Prop := t.sp = s.sp ∧ ∀ k, k < s.sp.val → t.stack[k]? = s.stack[k]?

theorem SameEntries.of_stack_eq {s t : State} (hstack : t.stack = s.stack) (hsp : t.sp = s.sp) : SameEntries s t :=
  ⟨hsp, fun k _ => by rw [hstack]⟩

/-- A return in a state with the entries the call left gives back the PC and the entries from before the call. -/
theorem exec_ret_undoes_call {nnn : Imm12} {s t u : State} (hs : s.sp.val < 16) (ht : exec (.call nnn) s = .next t)
    (hu : SameEntries t u) :
    ∃ r, exec .ret u = .next r ∧ r.status = .ok ∧ r.pc = s.pc ∧ SameEntries s r := by
  obtain ⟨t', ht', htsp, hpushed, hbelow, _⟩ := exec_call_of_lt nnn hs
  obtain rfl := Host.Outcome.next.inj (ht.symm.trans ht')
  obtain ⟨husp, hentries⟩ := hu
  have huval : u.sp.val = s.sp.val + 1 := by rw [husp, htsp]
  obtain ⟨r, hr, hrsp, hpopped, hframe⟩ := exec_ret_of_pos (s := u) (by omega)
  have hrstack : r.stack = u.stack := by rw [hframe]
  refine ⟨r, hr, by rw [hframe], ?pc, Fin.ext (by omega), fun k hk => ?below⟩
  case pc =>
    rw [huval, Nat.add_sub_cancel, hentries _ (by omega), hpushed] at hpopped
    exact (Option.some.inj hpopped).symm
  case below => rw [hrstack, hentries k (by omega), hbelow k (by omega)]

/-- Settles O16: a state with the stack and SP the call left has its entries. -/
theorem callThenReturnRestoresPc : Obligations.CallThenReturnRestoresPc := by
  unfold Obligations.CallThenReturnRestoresPc
  intro nnn s hs
  obtain ⟨t, ht, _⟩ := exec_call_of_lt nnn hs
  refine ⟨t, ht, fun u hstack hsp => ?_⟩
  obtain ⟨r, hr, hok, hpc, hrsp, hbelow⟩ := exec_ret_undoes_call hs ht (.of_stack_eq hstack hsp)
  exact ⟨r, hr, hpc, hrsp, hok, hbelow⟩

/-! ## Nested calls -/

/-- The chain goes on from a call that fits. -/
theorem callChain_cons_of_next {nnn : Imm12} {calls : List Imm12} {s t : State} (h : exec (.call nnn) s = .next t)
    (hok : t.status = .ok) : callChain (nnn :: calls) s = callChain calls t := by
  simp [callChain, h, hok]

/-- It ends at a call that does not. -/
theorem callChain_cons_of_full {nnn : Imm12} {calls : List Imm12} {s : State} (h : s.sp.val = 16) :
    callChain (nnn :: calls) s = none := by
  simp [callChain, exec_call_of_full nnn h]

theorem returnChain_succ_of_next {n : Nat} {s t u : State} (h : returnChain n s = some t)
    (hu : exec .ret t = .next u) (hok : u.status = .ok) : returnChain (n + 1) s = some u := by
  simp [returnChain, h, hu, hok]

/-- Each call of the list takes one entry of the 16. -/
theorem callChain_isSome {calls : List Imm12} {s : State} :
    (callChain calls s).isSome = true ↔ calls = [] ∨ s.sp.val + calls.length ≤ 16 := by
  induction calls generalizing s with
  | nil => simp [callChain]
  | cons nnn calls ih =>
    rcases Nat.lt_or_ge s.sp.val 16 with hlt | hfull
    · obtain ⟨t, ht, htsp, _, _, _, hframe⟩ := exec_call_of_lt nnn hlt
      rw [callChain_cons_of_next ht (by rw [hframe]), ih, htsp, ← List.length_eq_zero_iff]
      simp only [List.length_cons, reduceCtorEq, false_or]
      omega
    · rw [callChain_cons_of_full (by omega)]
      simp only [Option.isSome_none, Bool.false_eq_true, List.length_cons, reduceCtorEq, false_or, false_iff]
      omega

/-- As many returns as calls give back the PC and the entries from before the first: the returns of the inner calls lead
back to the entries the outermost call left, and one more undoes that call. -/
theorem returnChain_undoes_callChain {calls : List Imm12} {s t : State} (h : callChain calls s = some t) :
    ∃ u, returnChain calls.length t = some u ∧ u.pc = s.pc ∧ SameEntries s u := by
  induction calls generalizing s with
  | nil =>
    cases h
    exact ⟨_, rfl, rfl, .of_stack_eq rfl rfl⟩
  | cons nnn calls ih =>
    rcases Nat.lt_or_ge s.sp.val 16 with hlt | hfull
    · obtain ⟨s₁, hs₁, _, _, _, _, hframe⟩ := exec_call_of_lt nnn hlt
      rw [callChain_cons_of_next hs₁ (by rw [hframe])] at h
      obtain ⟨u, hu, _, hentries⟩ := ih h
      obtain ⟨r, hr, hok, hpc, hsame⟩ := exec_ret_undoes_call hlt hs₁ hentries
      exact ⟨r, returnChain_succ_of_next hu hr hok, hpc, hsame⟩
    · rw [callChain_cons_of_full (by omega)] at h
      cases h

/-- Settles O17, each clause by induction over the calls. -/
theorem nestedCallsFitSixteenAndUnwind : Obligations.NestedCallsFitSixteenAndUnwind := by
  unfold Obligations.NestedCallsFitSixteenAndUnwind
  exact fun calls s => ⟨callChain_isSome, fun t => returnChain_undoes_callChain⟩

end Sys2Proof.Machine
end

section
/-! What the ALU instructions share (42_alu.md R150, R151): a word of format XY written out, the results and the
flags as numbers, and what each way to write them leaves in the registers. -/

namespace Sys2Proof

/-- A word of format XY: its low nibble is fixed like its family nibble, so the two come first. -/
theorem append_xy_eq_or (p x y f : Nibble) : p ++ x ++ y ++ f =
    p.setWidth 16 <<< 12 ||| f.setWidth 16 ||| x.setWidth 16 <<< 8 ||| y.setWidth 16 <<< 4 := by
  rw [append_xyn_eq_or]
  ac_rfl

end Sys2Proof

namespace Sys2Proof.Machine

/-! ## Results and flags as numbers -/

theorem toNat_flagByte_decide (p : Prop) [Decidable p] : (flagByte (decide p)).toNat = if p then 1 else 0 := by
  by_cases hp : p <;> simp [flagByte, hp]

theorem addCarry_result (a b : Byte) : (addCarry a b).result.toNat = (a.toNat + b.toNat) % 256 :=
  BitVec.toNat_ofNat _ 8

theorem addCarry_flag (a b : Byte) :
    (flagByte (addCarry a b).flag).toNat = if 255 < a.toNat + b.toNat then 1 else 0 :=
  toNat_flagByte_decide _

theorem subNotBorrow_result (a b : Byte) : (subNotBorrow a b).result.toNat = (a.toNat + 256 - b.toNat) % 256 :=
  BitVec.toNat_ofNat _ 8

theorem subNotBorrow_flag (a b : Byte) :
    (flagByte (subNotBorrow a b).flag).toNat = if b.toNat < a.toNat then 1 else 0 :=
  toNat_flagByte_decide _

/-- Half a byte fits a byte, so nothing is cut off. -/
theorem shiftRight_result (a : Byte) : (shiftRight a).result.toNat = a.toNat / 2 :=
  (BitVec.toNat_ofNat _ 8).trans (Nat.mod_eq_of_lt (by omega))

theorem shiftLeft_result (a : Byte) : (shiftLeft a).result.toNat = a.toNat * 2 % 256 :=
  BitVec.toNat_ofNat _ 8

/-- The byte a shift reads (R160, R162). -/
theorem toNat_v_shiftSource (d : Dialect) (x y : RegIdx) (s : State) :
    (s.v (shiftSource d x y)).toNat = if d = .legacy then (s.v y).toNat else (s.v x).toNat := by
  cases d <;> rfl

/-! ## What the writes leave -/

theorem sameRegsBut_setV (x : RegIdx) (b : Byte) (s : State) : SameRegsBut [x] s (s.setV x b) := by
  intro r hr
  have hne : r ≠ x := by simpa using hr
  rw [State.setV_v, if_neg hne]

/-- An instruction that writes one register and completes. -/
theorem complete_setV (x : RegIdx) (b : Byte) (s : State) :
    ∃ t, complete (s.setV x b) = .next t ∧ t.v x = b ∧ SameRegsBut [x] s t ∧
      t = { s with regs := t.regs, status := .ok } :=
  ⟨_, rfl, by simp, sameRegsBut_setV x b s, rfl⟩

/-- An instruction that writes a result and its flag, here as numbers, and completes (R151). -/
theorem complete_writeResultAndFlag (last : Bool) (x : RegIdx) (s : State) {o : AluOut} {r f : Nat}
    (hr : o.result.toNat = r) (hf : (flagByte o.flag).toNat = f) :
    ∃ t, complete (s.writeResultAndFlag last x o) = .next t ∧
      (x ≠ vF → (t.v x).toNat = r ∧ (t.v vF).toNat = f) ∧
      (x = vF → (t.v vF).toNat = if last then f else r) ∧
      SameRegsBut [x, vF] s t ∧ t = { s with regs := t.regs, status := .ok } := by
  refine ⟨_, rfl, fun hx => ?other, fun hx => ?vf, fun k hk => ?registers, ?frame⟩
  case other => simp [State.writeResultAndFlag_v, hx, hr, hf]
  case vf => cases last <;> simp [State.writeResultAndFlag_v, hx, hr, hf]
  case registers =>
    obtain ⟨hkx, hkF⟩ : k ≠ x ∧ k ≠ vF := by simpa using hk
    simp [State.writeResultAndFlag_v, hkF, hkx]
  case frame => rw [State.writeResultAndFlag_eq]; rfl

/-- A shift that completes: result and flag, here as numbers, are written last, over the state with Vy already written
(R160, R162). -/
theorem complete_shiftWith (d : Dialect) (writeVy last : Bool) {op : Byte → AluOut} {x y : RegIdx} {s : State}
    {r f : Nat} (hr : (op (s.v (shiftSource d x y))).result.toNat = r)
    (hf : (flagByte (op (s.v (shiftSource d x y))).flag).toNat = f) :
    ∃ t, complete (s.shiftWith d writeVy last op x y) = .next t ∧
      (x ≠ vF → (t.v x).toNat = r ∧ (t.v vF).toNat = f) ∧
      (x = vF → (t.v vF).toNat = if last then f else r) ∧
      (y ≠ x → y ≠ vF → (t.v y).toNat = if d = .legacy ∧ writeVy = true then r else (s.v y).toNat) ∧
      SameRegsBut [x, y, vF] s t ∧ t = { s with regs := t.regs, status := .ok } := by
  obtain ⟨t, ht, hres, hflag, hsame, hframe⟩ := complete_writeResultAndFlag last x
    (s.writeShiftedVy d writeVy y (op (s.v (shiftSource d x y))).result) hr hf
  refine ⟨t, ht, hres, hflag, fun hyx hyF => ?vy, fun k hk => ?registers, ?frame⟩
  case vy =>
    rw [hsame y (by simp [hyx, hyF]), State.writeShiftedVy_v]
    simp only [and_true, apply_ite BitVec.toNat, hr]
  case registers =>
    obtain ⟨hkx, hky, hkF⟩ : k ≠ x ∧ k ≠ y ∧ k ≠ vF := by simpa using hk
    rw [hsame k (by simp [hkx, hkF]), State.writeShiftedVy_v, if_neg fun h => hky h.2]
  case frame =>
    rw [State.writeShiftedVy_eq] at hframe
    exact hframe

end Sys2Proof.Machine
end

section
/-! Loads, logic and the random byte (42_alu.md R152, R153, R155-R157, R163): one register written,
VF like any other. -/

namespace Sys2Proof.Machine

/-- Settles O22: each is one register write, the sum narrowed to a byte. -/
theorem immediateLoadAndAdd : Obligations.ImmediateLoadAndAdd := by
  unfold Obligations.ImmediateLoadAndAdd
  intro x nn s
  obtain ⟨t, ht, hv, hrest⟩ := complete_setV x (BitVec.ofNat 8 ((s.v x).toNat + nn.toNat)) s
  exact ⟨append_xnn_eq_or 0x6#4 x nn, append_xnn_eq_or 0x7#4 x nn, complete_setV x nn s,
    t, ht, by rw [hv, BitVec.toNat_ofNat], hrest⟩

/-- Settles O24: each is one register write, of a value that is bitwise by definition. -/
theorem logicOperations : Obligations.LogicOperations := by
  unfold Obligations.LogicOperations
  intro x y s
  refine ⟨append_xy_eq_or 0x8#4 x y 0x1#4, append_xy_eq_or 0x8#4 x y 0x2#4, append_xy_eq_or 0x8#4 x y 0x3#4,
    ?or, ?and, ?xor⟩
  case or =>
    obtain ⟨t, ht, hv, hrest⟩ := complete_setV x (s.v x ||| s.v y) s
    exact ⟨t, ht, fun b => by rw [hv, BitVec.getLsbD_or], hrest⟩
  case and =>
    obtain ⟨t, ht, hv, hrest⟩ := complete_setV x (s.v x &&& s.v y) s
    exact ⟨t, ht, fun b => by rw [hv, BitVec.getLsbD_and], hrest⟩
  case xor =>
    obtain ⟨t, ht, hv, hrest⟩ := complete_setV x (s.v x ^^^ s.v y) s
    exact ⟨t, ht, fun b => by rw [hv, BitVec.getLsbD_xor], hrest⟩

/-- Settles O30: counting the draw writes no register. -/
theorem randomByteIsMasked : Obligations.RandomByteIsMasked := by
  unfold Obligations.RandomByteIsMasked
  intro x nn s
  exact ⟨_, rfl, fun b => by simp, rfl, sameRegsBut_setV x _ s, rfl⟩

end Sys2Proof.Machine
end

section
/-! Sums, differences and shifts (42_alu.md R158-R162): a result and its flag. -/

namespace Sys2Proof.Machine

/-- Settles O25: result and flag of the sum. -/
theorem addWithCarry : Obligations.AddWithCarry := by
  unfold Obligations.AddWithCarry
  exact fun x y s => ⟨append_xy_eq_or 0x8#4 x y 0x4#4,
    complete_writeResultAndFlag vfLast x s (addCarry_result _ _) (addCarry_flag _ _)⟩

/-- Settles O26: result and flag of the difference. -/
theorem subtractWithNotBorrow : Obligations.SubtractWithNotBorrow := by
  unfold Obligations.SubtractWithNotBorrow
  exact fun x y s => ⟨append_xy_eq_or 0x8#4 x y 0x5#4,
    complete_writeResultAndFlag vfLast x s (subNotBorrow_result _ _) (subNotBorrow_flag _ _)⟩

/-- Settles O27: result and flag of the difference with the operands exchanged. -/
theorem reverseSubtractWithNotBorrow : Obligations.ReverseSubtractWithNotBorrow := by
  unfold Obligations.ReverseSubtractWithNotBorrow
  exact fun x y s => ⟨append_xy_eq_or 0x8#4 x y 0x7#4,
    complete_writeResultAndFlag vfLast x s (subNotBorrow_result _ _) (subNotBorrow_flag _ _)⟩

/-- Settles O28: half the source the dialect picks, and the bit shifted out. -/
theorem shiftRightByDialect : Obligations.ShiftRightByDialect := by
  unfold Obligations.ShiftRightByDialect
  intro x y s
  obtain ⟨t, ht⟩ := complete_shiftWith dialect legacyShiftVy vfLast (x := x) (y := y) (s := s)
    (shiftRight_result _) (shiftRight_flag _)
  rw [toNat_v_shiftSource] at ht
  exact ⟨append_xy_eq_or 0x8#4 x y 0x6#4, t, _, rfl, ht⟩

/-- Settles O29: twice that source, narrowed to a byte, and the bit shifted out. -/
theorem shiftLeftByDialect : Obligations.ShiftLeftByDialect := by
  unfold Obligations.ShiftLeftByDialect
  intro x y s
  obtain ⟨t, ht⟩ := complete_shiftWith dialect legacyShiftVy vfLast (x := x) (y := y) (s := s)
    (shiftLeft_result _) (shiftLeft_flag _)
  rw [toNat_v_shiftSource] at ht
  exact ⟨append_xy_eq_or 0x8#4 x y 0xE#4, t, _, rfl, ht⟩

end Sys2Proof.Machine
end

section
/-! The index register and the checked transfers through it (43_index_memory.md R180-R185; 20_memory.md R64, R67): what
each does where its range lies in memory and where not, and that a block load gives back what a block store wrote. -/

namespace Sys2Proof.Machine

/-! ## The index register -/

theorem toNat_v16 (s : State) (x : RegIdx) : (s.v16 x).toNat = (s.v x).toNat :=
  BitVec.toNat_setWidth_of_le (by decide)

/-- Five times a byte fits 16 bits, so the product is exact. -/
theorem toNat_v16_mul_five (s : State) (x : RegIdx) : (s.v16 x * 5#16).toNat = (s.v x).toNat * 5 := by
  have hv := (s.v x).isLt
  have hsmall : (s.v x).toNat * 5 < 2 ^ 16 := by omega
  rw [BitVec.toNat_mul, toNat_v16]
  exact Nat.mod_eq_of_lt hsmall

/-- Settles O31: each is one write of I; the highest glyph address is 1275, far below the top of memory. -/
theorem indexFromAddressOrGlyph : Obligations.IndexFromAddressOrGlyph := by
  unfold Obligations.IndexFromAddressOrGlyph
  intro x nnn s
  refine ⟨append_nnn_eq_or 0xA#4 nnn, append_x_eq_or 0xF#4 x 0x29#8, ⟨_, rfl, toNat_addrOperand nnn, rfl⟩,
    _, rfl, toNat_v16_mul_five s x, fun n => ?drawInMemory, rfl⟩
  case drawInMemory =>
    have hv := (s.v x).isLt
    have hn := n.isLt
    rw [State.finish_i, State.setI_i, toNat_v16_mul_five]
    simp only [memSize]
    omega

/-- Settles O32: one write of I, of a 16-bit sum. -/
theorem indexAddWrapsAtSixteenBits : Obligations.IndexAddWrapsAtSixteenBits := by
  unfold Obligations.IndexAddWrapsAtSixteenBits
  intro x s
  have hsum : (s.i + s.v16 x).toNat = (s.i.toNat + (s.v x).toNat) % 65536 := by rw [BitVec.toNat_add, toNat_v16]
  exact ⟨append_x_eq_or 0xF#4 x 0x1E#8, _, rfl, hsum, rfl⟩

/-! ## Bytes written and bytes left alone -/

/-- The byte of offset k stands k above the start of the block. -/
theorem Memory.read_writeBytes_of_getElem? {m : Memory} {a k : Nat} {bs : List Byte} {b : Byte}
    (ha : a + bs.length ≤ memSize) (hm : Memory.wf m) (hk : bs[k]? = some b) :
    (m.writeBytes a bs).read (a + k) = b := by
  rw [Memory.read_writeBytes ha hm, if_pos (Nat.le_add_right a k), Nat.add_sub_cancel_left, hk, Option.getD_some]

theorem sameBytesOutside_writeBytes {m : Memory} {a : Nat} {bs : List Byte} (ha : a + bs.length ≤ memSize)
    (hm : Memory.wf m) : SameBytesOutside a bs.length m (m.writeBytes a bs) := by
  intro b _ hb
  rw [Memory.read_writeBytes ha hm]
  rcases hb with hbelow | habove
  · rw [if_neg hbelow.not_ge]
  · have hout : bs[b - a]? = none := List.getElem?_eq_none (by omega)
    rw [hout, Option.getD_none, ite_self]

/-! ## Decimal digits (R183) -/

theorem exec_ldBVx_of_le (x : RegIdx) {s : State} (h : s.i.toNat + 3 ≤ memSize) :
    exec (.ldBVx x) s = complete (s.setMem (s.mem.writeBytes s.i.toNat (bcdDigits (s.v x)))) := by
  rw [exec, execLdBVx, State.storeBlock_eq_some.2 ⟨h, rfl⟩]

theorem exec_ldBVx_of_gt (x : RegIdx) {s : State} (h : memSize < s.i.toNat + 3) :
    exec (.ldBVx x) s = .next { s with status := .illegalMemoryAccess, faulted := true } := by
  rw [exec, execLdBVx, State.storeBlock_eq_none.2 h]
  exact raise_eq (by decide) s

/-- Settles O33: the three bytes written are the digits, each small enough for a byte. -/
theorem bcdStoresThreeDigits : Obligations.BcdStoresThreeDigits := by
  unfold Obligations.BcdStoresThreeDigits
  intro x s hm
  refine ⟨append_x_eq_or 0xF#4 x 0x33#8, fun h => ?inRange, exec_ldBVx_of_gt x⟩
  case inRange =>
    have digit {k n : Nat} (hk : (bcdDigits (s.v x))[k]? = some (BitVec.ofNat 8 n)) (hn : n ≤ (s.v x).toNat) :
        ((s.mem.writeBytes s.i.toNat (bcdDigits (s.v x))).read (s.i.toNat + k)).toNat = n := by
      rw [Memory.read_writeBytes_of_getElem? h hm hk, BitVec.toNat_ofNat, Nat.mod_eq_of_lt (hn.trans_lt (s.v x).isLt)]
    exact ⟨_, exec_ldBVx_of_le x h, digit (k := 0) rfl (by omega), digit (k := 1) rfl (by omega),
      digit (k := 2) rfl (by omega), sameBytesOutside_writeBytes (bs := bcdDigits (s.v x)) h hm, rfl⟩

/-! ## Block store (R184) -/

theorem exec_ldMemVx_of_le {x : RegIdx} {s : State} (h : s.i.toNat + (x.toNat + 1) ≤ memSize) :
    exec (.ldMemVx x) s = complete
      ((s.setMem (s.mem.writeBytes s.i.toNat (s.blockRegs x))).setI (indexAfterBlock dialect s.i x)) := by
  rw [exec, execLdMemVx, State.storeBlock_eq_some.2 ⟨by rwa [State.length_blockRegs], rfl⟩]

theorem exec_ldMemVx_of_gt {x : RegIdx} {s : State} (h : memSize < s.i.toNat + (x.toNat + 1)) :
    exec (.ldMemVx x) s = .next { s with status := .illegalMemoryAccess, faulted := true } := by
  rw [exec, execLdMemVx, State.storeBlock_eq_none.2 (by rwa [State.length_blockRegs])]
  exact raise_eq (by decide) s

/-- Settles O34: the bytes written are V0 to VX, and the rest is the frame of a block write. -/
theorem blockStore : Obligations.BlockStore := by
  unfold Obligations.BlockStore
  intro x s hm
  refine ⟨append_x_eq_or 0xF#4 x 0x55#8, fun h => ?inRange, exec_ldMemVx_of_gt⟩
  case inRange =>
    have hexec := exec_ldMemVx_of_le h
    rw [← State.length_blockRegs s x] at h ⊢
    exact ⟨_, hexec, fun r => exec_ldMemVx_read hm hexec rfl, sameBytesOutside_writeBytes h hm,
      toNat_indexAfterBlock dialect s.i x, rfl⟩

/-! ## Block load (R185) -/

/-- The registers after a block load: V0 to VX from memory, the others as they were. -/
theorem State.setRegs_readBytes_v (m : Memory) (a : Nat) (x : RegIdx) (s : State) (r : RegIdx) :
    (State.setRegs 0 (m.readBytes a (blockCount x)) s).v r = if r ≤ x then m.read (a + r.toNat) else s.v r := by
  have hx := x.isLt
  rw [State.setRegs_v 0 _ s (by rw [Memory.length_readBytes, blockCount]; omega), if_pos (Nat.zero_le _), Nat.sub_zero]
  by_cases hr : r ≤ x
  · have hin : r.toNat < blockCount x := Nat.lt_succ_of_le hr
    rw [if_pos hr, Memory.getElem?_readBytes m a _ _ hin, Option.getD_some]
  · have hout : (m.readBytes a (blockCount x))[r.toNat]? = none :=
      List.getElem?_eq_none (by rw [Memory.length_readBytes]; exact BitVec.not_le.1 hr)
    rw [if_neg hr, hout, Option.getD_none]

/-- A block load with its range in memory. -/
theorem exec_ldVxMem_of_le {x : RegIdx} {s : State} (h : s.i.toNat + (x.toNat + 1) ≤ memSize) :
    ∃ t, exec (.ldVxMem x) s = .next t ∧
      (∀ r : RegIdx, t.v r = if r ≤ x then s.mem.read (s.i.toNat + r.toNat) else s.v r) ∧
      t.i.toNat = (if dialect = .legacy then (s.i.toNat + x.toNat + 1) % 65536 else s.i.toNat) ∧
      t = { s with regs := t.regs, i := t.i, status := .ok } := by
  have hexec : exec (.ldVxMem x) s = complete
      ((State.setRegs 0 (s.mem.readBytes s.i.toNat (blockCount x)) s).setI (indexAfterBlock dialect s.i x)) := by
    rw [exec, execLdVxMem, (State.loadBlock_eq_some (n := blockCount x)).2 ⟨h, rfl⟩]
  refine ⟨_, hexec, State.setRegs_readBytes_v s.mem s.i.toNat x s, toNat_indexAfterBlock dialect s.i x, ?frame⟩
  case frame => rw [State.setRegs_eq]; rfl

theorem exec_ldVxMem_of_gt {x : RegIdx} {s : State} (h : memSize < s.i.toNat + (x.toNat + 1)) :
    exec (.ldVxMem x) s = .next { s with status := .illegalMemoryAccess, faulted := true } := by
  rw [exec, execLdVxMem, (State.loadBlock_eq_none (n := blockCount x)).2 h]
  exact raise_eq (by decide) s

/-- Settles O35, a clause at a time. -/
theorem blockLoad : Obligations.BlockLoad := by
  unfold Obligations.BlockLoad
  exact fun x s => ⟨append_x_eq_or 0xF#4 x 0x65#8, exec_ldVxMem_of_le, exec_ldVxMem_of_gt⟩

/-- Settles O36: the store that ended Ok had its range in memory, so the load has, and it reads V0 to VX there. -/
theorem blockLoadUndoesBlockStore : Obligations.BlockLoadUndoesBlockStore := by
  unfold Obligations.BlockLoadUndoesBlockStore
  intro x s t u hm hstore hok hmem hi
  have hrange : u.i.toNat + (x.toNat + 1) ≤ memSize := by
    rw [hi, ← State.length_blockRegs s x]
    exact (exec_ldMemVx_ok hstore hok).1
  obtain ⟨r, hload, hregs, _, hframe⟩ := exec_ldVxMem_of_le hrange
  refine ⟨r, hload, by rw [hframe], fun k => ?_⟩
  rw [hregs k, hmem, hi]
  by_cases hk : k ≤ x
  · rw [if_pos hk, if_pos hk, exec_ldMemVx_read hm hstore hok hk]
  · rw [if_neg hk, if_neg hk]

end Sys2Proof.Machine
end

section
/-! Where the cells of a sprite land (44_display.md R201, R202): off the screen from the edge on, and, the sprite being
no larger than the screen, each cell in a place of its own. -/

namespace Sys2Proof.Machine

/-! ## One axis -/

/-- Past the edge of the screen everything further out is off it too. -/
theorem onAxis_eq_none_of_le {wrap : Bool} {size : Nat} {h : 0 < size} {k l : Nat} (hkl : k ≤ l)
    (hk : onAxis wrap size h k = none) : onAxis wrap size h l = none := by
  cases wrap with
  | true => simp [onAxis] at hk
  | false =>
    simp only [onAxis, Bool.false_eq_true, if_false, dite_eq_right_iff, reduceCtorEq, imp_false] at hk ⊢
    omega

/-- Two offsets below the size of the axis, from one origin, that land on the same place are the same. -/
theorem eq_of_onAxis_eq_some {wrap : Bool} {size : Nat} {h : 0 < size} {o k l : Nat} {p : Fin size} (hk : k < size)
    (hl : l < size) (hkp : onAxis wrap size h (o + k) = some p) (hlp : onAxis wrap size h (o + l) = some p) :
    k = l := by
  cases wrap with
  | true =>
    have hmod : (o + k) % size = (o + l) % size := congrArg Fin.val (Option.some.inj (hkp.trans hlp.symm))
    exact Nat.ModEq.eq_of_lt_of_lt (Nat.ModEq.add_left_cancel' o hmod) hk hl
  | false =>
    simp only [onAxis, Bool.false_eq_true, if_false, Option.dite_none_right_eq_some] at hkp hlp
    obtain ⟨_, hkp⟩ := hkp
    obtain ⟨_, hlp⟩ := hlp
    have hsum : o + k = o + l := congrArg Fin.val (Option.some.inj (hkp.trans hlp.symm))
    omega

/-! ## One cell -/

/-- A sprite cell is visited where both its row and its column are on the screen. -/
theorem cellOf_eq_bind (wrap : Bool) (x0 y0 r c : Nat) : cellOf wrap x0 y0 r c =
    (rowAt wrap y0 r).bind fun row => (columnAt wrap x0 c).map fun col => (r, c, row, col) := by
  cases wrap with
  | true => rfl
  | false =>
    by_cases hr : y0 + r < 32 <;> by_cases hc : x0 + c < 64 <;> simp [cellOf, rowAt, columnAt, onAxis, hr, hc]

theorem rowAt_columnAt_of_cellOf {wrap : Bool} {x0 y0 r c : Nat} {q : Cell} (h : cellOf wrap x0 y0 r c = some q) :
    rowAt wrap y0 r = some q.2.2.1 ∧ columnAt wrap x0 c = some q.2.2.2 := by
  rw [cellOf_eq_bind] at h
  obtain ⟨row, hrow, h⟩ := Option.bind_eq_some_iff.1 h
  obtain ⟨col, hcol, rfl⟩ := Option.map_eq_some_iff.1 h
  exact ⟨hrow, hcol⟩

/-! ## All cells -/

/-- No two of these cells land on the same pixel. -/
def Apart (cells : List Cell) : Prop := cells.Pairwise fun p q => p.2.2 ≠ q.2.2

theorem apart_concat {cells : List Cell} {q : Cell} :
    Apart (cells ++ [q]) ↔ Apart cells ∧ ∀ p ∈ cells, p.2.2 ≠ q.2.2 := by
  simp [Apart, List.pairwise_append]

/-- A sprite is 8 columns wide and at most 15 rows high, so that not even wrapping makes it overlap itself. -/
theorem visitedCells_apart (wrap : Bool) (x0 y0 : Nat) (n : Nibble) : Apart (visitedCells wrap x0 y0 n.toNat) := by
  have hn := n.isLt
  unfold Apart visitedCells
  rw [List.pairwise_flatMap]
  constructor
  · intro r _
    rw [List.pairwise_filterMap]
    refine List.pairwise_lt_range.imp_of_mem fun {c c'} hc hc' hlt p hp q hq heq => hlt.ne ?_
    have hcol := (rowAt_columnAt_of_cellOf hp).2
    rw [heq] at hcol
    have hc := List.mem_range.1 hc
    have hc' := List.mem_range.1 hc'
    exact eq_of_onAxis_eq_some (by omega) (by omega) hcol (rowAt_columnAt_of_cellOf hq).2
  · refine List.pairwise_lt_range.imp_of_mem fun {r r'} hr hr' hlt p hp q hq heq => hlt.ne ?_
    obtain ⟨c, _, hp⟩ := List.mem_filterMap.1 hp
    obtain ⟨c', _, hq⟩ := List.mem_filterMap.1 hq
    have hrow := (rowAt_columnAt_of_cellOf hp).1
    rw [heq] at hrow
    have hr := List.mem_range.1 hr
    have hr' := List.mem_range.1 hr'
    exact eq_of_onAxis_eq_some (by omega) (by omega) hrow (rowAt_columnAt_of_cellOf hq).1

end Sys2Proof.Machine
end

section
/-! The blitter's loops (44_display.md R204) are one fold over the visited cells; what that fold leaves in the display
and in the collision flag (R203). -/

namespace Sys2Proof.Machine

/-- The blitter's visit of a cell of the closed form. -/
def Blit.visit (rule : CollisionRule) (bit : Nat → Nat → Bool) (t : Blit) (q : Cell) : Blit :=
  t.cell rule q.2.2.1 q.2.2.2 (bit q.1 q.2.1)

/-! ## From the loops to the fold -/

section
variable {wrap : Bool} {x0 y0 : Nat} (rule : CollisionRule) (m : Memory) (a : Nat)

/-- The column loop visits the cells of its row; where it ends early, the cells left out are off the screen. -/
theorem Blit.columns_eq_foldl {r : Nat} {row : Fin 32} (hrow : rowAt wrap y0 r = some row) {cs : List Nat}
    (hcs : cs.Pairwise (· < ·)) (t : Blit) :
    t.columns wrap rule row x0 (m.read (a + r)) cs =
      (cs.filterMap fun c => cellOf wrap x0 y0 r c).foldl (Blit.visit rule (spriteBitAt m a)) t := by
  induction cs generalizing t with
  | nil => rfl
  | cons c cs ih =>
    obtain ⟨hlt, hcs⟩ := List.pairwise_cons.1 hcs
    cases hcol : columnAt wrap x0 c with
    | none =>
      have hoff : ∀ c' ∈ c :: cs, cellOf wrap x0 y0 r c' = none := by
        intro c' hc'
        have hle : c ≤ c' := (List.mem_cons.1 hc').elim (·.ge) fun hmem => (hlt c' hmem).le
        have hcol' : columnAt wrap x0 c' = none := onAxis_eq_none_of_le (by omega) hcol
        rw [cellOf_eq_bind, hrow, hcol']
        rfl
      rw [List.filterMap_eq_nil_iff.2 hoff, Blit.columns, hcol]
      rfl
    | some col =>
      have hon : cellOf wrap x0 y0 r c = some (r, c, row, col) := by rw [cellOf_eq_bind, hrow, hcol]; rfl
      rw [List.filterMap_cons_some hon, List.foldl_cons, ← ih hcs, Blit.columns, hcol]
      rfl

/-- The row loop visits the cells of the rows left; where it ends early, the rows left out are off the screen. -/
theorem Blit.rows_eq_foldl (r n : Nat) (t : Blit) :
    t.rows wrap rule x0 y0 r ((List.range' r n).map fun k => m.read (a + k)) =
      ((List.range' r n).flatMap fun k => (List.range 8).filterMap fun c => cellOf wrap x0 y0 k c).foldl
        (Blit.visit rule (spriteBitAt m a)) t := by
  induction n generalizing r t with
  | zero => rfl
  | succ n ih =>
    cases hrow : rowAt wrap y0 r with
    | none =>
      have hoff : ∀ k ∈ List.range' r (n + 1), (List.range 8).filterMap (fun c => cellOf wrap x0 y0 k c) = [] := by
        intro k hk
        have hrow' : rowAt wrap y0 k = none :=
          onAxis_eq_none_of_le (Nat.add_le_add_left (List.mem_range'_1.1 hk).1 y0) hrow
        refine List.filterMap_eq_nil_iff.2 fun c _ => ?_
        rw [cellOf_eq_bind, hrow']
        rfl
      rw [List.flatMap_eq_nil_iff.2 hoff, List.range'_succ, List.map_cons, Blit.rows, hrow]
      rfl
    | some row =>
      rw [List.range'_succ, List.map_cons, List.flatMap_cons, List.foldl_append, ← ih,
        ← Blit.columns_eq_foldl rule m a hrow List.pairwise_lt_range, Blit.rows, hrow]

/-- A draw visits the visited cells of R202, in source order. -/
theorem blit_eq_foldl (n : Nat) (d : Display) :
    blit wrap rule x0 y0 (m.readBytes a n) d =
      (visitedCells wrap x0 y0 n).foldl (Blit.visit rule (spriteBitAt m a)) ⟨d, ⟨false, false⟩⟩ := by
  rw [blit, visitedCells, Memory.readBytes, List.range_eq_range']
  exact Blit.rows_eq_foldl rule m a 0 n _

end

/-! ## The display after the fold -/

/-- The cell toggles this pixel. -/
def togglesAt (bit : Nat → Nat → Bool) (row : Fin 32) (col : Fin 64) (q : Cell) : Bool :=
  bit q.1 q.2.1 && decide (q.2.2.1 = row ∧ q.2.2.2 = col)

theorem Blit.visit_pixel (rule : CollisionRule) (bit : Nat → Nat → Bool) (t : Blit) (q : Cell) (row : Fin 32)
    (col : Fin 64) :
    (t.visit rule bit q).disp.pixel row col = (t.disp.pixel row col ^^ togglesAt bit row col q) := by
  rw [Blit.visit, Blit.cell, Display.pixel_xorPixel]
  simp only [togglesAt, eq_comm (a := row), eq_comm (a := col)]

/-- Cells that land elsewhere leave a pixel alone. -/
theorem any_togglesAt_eq_false {bit : Nat → Nat → Bool} {cells : List Cell} {row : Fin 32} {col : Fin 64}
    (h : ∀ p ∈ cells, p.2.2 ≠ (row, col)) : cells.any (togglesAt bit row col) = false := by
  refine List.any_eq_false.2 fun p hp ht => h p hp ?_
  have hpos := of_decide_eq_true (Bool.and_eq_true_iff.1 ht).2
  exact Prod.ext hpos.1 hpos.2

/-- No pixel is toggled twice, so a pixel is toggled where some cell does so. -/
theorem foldl_visit_pixel (rule : CollisionRule) (bit : Nat → Nat → Bool) (t : Blit) {cells : List Cell}
    (h : Apart cells) (row : Fin 32) (col : Fin 64) :
    (cells.foldl (Blit.visit rule bit) t).disp.pixel row col =
      (t.disp.pixel row col ^^ cells.any (togglesAt bit row col)) := by
  induction cells using List.reverseRecOn with
  | nil => simp
  | append_singleton cells q ih =>
    obtain ⟨hcells, hq⟩ := apart_concat.1 h
    rw [List.foldl_concat, Blit.visit_pixel, ih hcells, List.any_append, List.any_cons, List.any_nil, Bool.or_false]
    cases hlit : togglesAt bit row col q with
    | false => rw [Bool.xor_false, Bool.or_false]
    | true =>
      obtain ⟨hrow, hcol⟩ := of_decide_eq_true (Bool.and_eq_true_iff.1 hlit).2
      rw [any_togglesAt_eq_false fun p hp => hrow ▸ hcol ▸ hq p hp, Bool.xor_false, Bool.false_or]

/-! ## The collision flag after the fold -/

/-- The collision flag after one more visited cell, by each rule (R203). -/
def flagAfter (rule : CollisionRule) (bit old flag : Bool) : Bool :=
  match rule with
  | .anyHit => flag || (bit && old)
  | .lastSetBit => if bit then old else flag
  | .lastCell => bit && old

theorem Collision.flag_visit (rule : CollisionRule) (bit old : Bool) (c : Collision) :
    (c.visit rule bit old).flag rule = flagAfter rule bit old (c.flag rule) := by
  cases rule <;> rfl

theorem collisionByRule_concat (rule : CollisionRule) (bit : Nat → Nat → Bool) (d : Display) (cells : List Cell)
    (q : Cell) : collisionByRule rule bit d (cells ++ [q]) =
      flagAfter rule (bit q.1 q.2.1) (d.pixel q.2.2.1 q.2.2.2) (collisionByRule rule bit d cells) := by
  cases rule with
  | anyHit => simp [collisionByRule, flagAfter]
  | lastSetBit => cases hbit : bit q.1 q.2.1 <;> simp [collisionByRule, flagAfter, hbit]
  | lastCell => simp [collisionByRule, flagAfter]

/-- No pixel is visited twice, so each cell meets the display from before the draw. -/
theorem foldl_visit_flag (rule : CollisionRule) (bit : Nat → Nat → Bool) (d : Display) {cells : List Cell}
    (h : Apart cells) :
    (cells.foldl (Blit.visit rule bit) ⟨d, ⟨false, false⟩⟩).coll.flag rule = collisionByRule rule bit d cells := by
  induction cells using List.reverseRecOn with
  | nil => cases rule <;> rfl
  | append_singleton cells q ih =>
    obtain ⟨hcells, hq⟩ := apart_concat.1 h
    rw [List.foldl_concat, Blit.visit, Blit.cell, Collision.flag_visit, ih hcells,
      foldl_visit_pixel rule bit _ hcells, any_togglesAt_eq_false hq, Bool.xor_false, collisionByRule_concat]

end Sys2Proof.Machine
end

section
/-! Clear screen and draw (44_display.md R200-R204). -/

namespace Sys2Proof.Machine

/-- Settles O38: one write of the display, to blank, and one of its flags. -/
theorem clearScreen : Obligations.ClearScreen := by
  unfold Obligations.ClearScreen
  exact ⟨by decide, fun s => ⟨_, rfl, Display.pixel_blank, rfl⟩⟩

section
variable (wrap : Bool) (rule : CollisionRule) (x y : RegIdx) (sprite : List Byte) (s : State)

@[simp] theorem State.drawSprite_disp : (s.drawSprite wrap rule x y sprite).disp =
    (blit wrap rule (s.v x).toNat (s.v y).toNat sprite s.disp).disp := rfl

@[simp] theorem State.drawSprite_vF : (s.drawSprite wrap rule x y sprite).v vF =
    flagByte ((blit wrap rule (s.v x).toNat (s.v y).toNat sprite s.disp).coll.flag rule) := by
  simp [State.drawSprite]

end

/-- A draw with its N rows in memory. -/
theorem exec_drw_of_le (x y : RegIdx) {n : Nibble} {s : State} (h : s.i.toNat + n.toNat ≤ memSize) :
    exec (.drw x y n) s =
      complete (s.drawSprite screenWrap collision x y (s.mem.readBytes s.i.toNat n.toNat)) := by
  rw [exec, execDrw, State.loadBlock_eq_some.2 ⟨h, rfl⟩]

theorem exec_drw_of_gt (x y : RegIdx) {n : Nibble} {s : State} (h : memSize < s.i.toNat + n.toNat) :
    exec (.drw x y n) s = .next { s with status := .illegalMemoryAccess, faulted := true } := by
  rw [exec, execDrw, State.loadBlock_eq_none.2 h]
  exact raise_eq (by decide) s

/-- The pixels after a draw with its N rows in memory: those that some visited cell toggles are toggled (R204). -/
theorem exec_drw_pixel {x y : RegIdx} {n : Nibble} {s t : State} (h : s.i.toNat + n.toNat ≤ memSize)
    (ht : exec (.drw x y n) s = .next t) (row : Fin 32) (col : Fin 64) :
    t.disp.pixel row col = (s.disp.pixel row col ^^
      (visitedCells screenWrap (s.v x).toNat (s.v y).toNat n.toNat).any
        (togglesAt (spriteBitAt s.mem s.i.toNat) row col)) := by
  obtain rfl := Host.Outcome.next.inj ((exec_drw_of_le x y h).symm.trans ht)
  rw [State.finish_disp, State.drawSprite_disp, blit_eq_foldl, foldl_visit_pixel _ _ _ (visitedCells_apart _ _ _ n)]

/-- Settles O39: the loops are a fold over the visited cells, which lie apart; it gives the display and the flag. -/
theorem drawXorsSpriteAndReportsCollision : Obligations.DrawXorsSpriteAndReportsCollision := by
  unfold Obligations.DrawXorsSpriteAndReportsCollision
  intro x y n s
  refine ⟨append_xyn_eq_or 0xD#4 x y n, fun h => ?inRange, exec_drw_of_gt x y⟩
  case inRange =>
    have hexec := exec_drw_of_le x y h
    refine ⟨_, hexec, exec_drw_pixel h hexec, ?flag, sameRegsBut_setV vF _ (s.setDisp _), rfl⟩
    case flag =>
      rw [State.finish_v, State.drawSprite_vF, blit_eq_foldl, foldl_visit_flag _ _ _ (visitedCells_apart _ _ _ n)]
      cases collisionByRule collision _ _ _ <;> rfl

/-- Settles O40: the first draw ended Ok, so both have the sprite in memory, and each toggles the same pixels. -/
theorem drawingTwiceRestoresDisplay : Obligations.DrawingTwiceRestoresDisplay := by
  unfold Obligations.DrawingTwiceRestoresDisplay
  intro x y n s t u v hfirst hok hdisp hmem hi hx hy hsecond
  have hs : s.i.toNat + n.toNat ≤ memSize := by
    by_contra hgt
    rw [exec_drw_of_gt x y (not_le.1 hgt)] at hfirst
    cases hfirst
    cases hok
  have hu : u.i.toNat + n.toNat ≤ memSize := hi ▸ hs
  refine Display.ext_pixel fun row col => ?_
  rw [exec_drw_pixel hu hsecond, hdisp, hmem, hi, hx, hy, exec_drw_pixel hs hfirst, Bool.xor_assoc, Bool.xor_self,
    Bool.xor_false]

end Sys2Proof.Machine
end

section
/-! Timer access and wait-for-key (45_timers_keys.md R220-R223). -/

namespace Sys2Proof.Machine

/-- Settles O41: the first is one register write; the others write one timer each, and no debounce state. -/
theorem timerRegisterCopies : Obligations.TimerRegisterCopies := by
  unfold Obligations.TimerRegisterCopies
  exact fun x s => ⟨append_x_eq_or 0xF#4 x 0x07#8, append_x_eq_or 0xF#4 x 0x15#8, append_x_eq_or 0xF#4 x 0x18#8,
    complete_setV x s.dt s, complete_eq (s.setDt (s.v x)), complete_eq (s.setSt (s.v x))⟩

/-- The lowest held key is one that is held with none below it held (R223). -/
theorem State.lowestHeldKey_eq_some {s : State} {k : Fin 16} :
    s.lowestHeldKey = some k.val ↔ s.keys[k.val] = true ∧ ∀ j : Fin 16, j < k → s.keys[j.val] = false := by
  rw [State.lowestHeldKey, List.findIdx?_eq_some_iff_getElem]
  constructor
  · rintro ⟨_, hk, hlow⟩
    exact ⟨hk, fun j hj => Bool.eq_false_iff.2 (hlow j.val hj)⟩
  · rintro ⟨hk, hlow⟩
    exact ⟨by simp, hk, fun j hj => Bool.eq_false_iff.1 (hlow ⟨j, hj.trans k.isLt⟩ hj)⟩

/-- With a key held, the wait ends: the key goes to Vx. -/
theorem State.waitKey_standard_of_some {s : State} {k : Nat} (x : RegIdx) (h : s.lowestHeldKey = some k) :
    s.waitKey .standard x = s.setV x (BitVec.ofNat 8 k) := by
  rw [State.waitKey, h]

/-- With no key held, the wait goes on: the next step executes the instruction again. -/
theorem State.waitKey_standard_of_none {s : State} (x : RegIdx) (h : s.lowestHeldKey = none) :
    s.waitKey .standard x = s.setPc (s.pc - 2#16) := by
  rw [State.waitKey, h, State.fetchedFrom]

/-- Settles O42: under Standard the lowest held key decides, and under NoOp the instruction only completes. -/
theorem waitForKey : Obligations.WaitForKey := by
  unfold Obligations.WaitForKey
  intro x s
  refine ⟨append_x_eq_or 0xF#4 x 0x0A#8, (s.waitKey unlisted x).finish .ok, rfl, ?_⟩
  cases unlisted with
  | standard =>
    rw [if_pos rfl]
    refine ⟨fun k hk hlow => ?held, fun hnone => ?noneHeld⟩
    case held =>
      rw [State.waitKey_standard_of_some x (State.lowestHeldKey_eq_some.2 ⟨hk, hlow⟩)]
      have hfits : k.val < 256 := by omega
      exact ⟨by simp [hfits], sameRegsBut_setV x _ s, rfl⟩
    case noneHeld =>
      rw [State.waitKey_standard_of_none x (State.lowestHeldKey_eq_none.2 hnone)]
      rfl
  | noOp =>
    rw [if_neg (by decide)]
    rfl

end Sys2Proof.Machine
end

section
/-! A self-jump as the end of a run (60_exceptions.md R257, 41_control_flow.md R121). -/

namespace Sys2Proof.Machine

/-- A word below 0x1000 is its low 12 bits as an address. -/
theorem addrOperand_setWidth {w : Word} (h : w.toNat < 4096) : addrOperand (w.setWidth 12) = w := by
  apply BitVec.eq_of_toNat_eq
  simp only [addrOperand, BitVec.toNat_setWidth]
  omega

/-- The word `0x1000 | a` is the jump to a, for an address a (41_control_flow.md R121). -/
theorem decodeWord_jumpTo {a : Word} (h : a.toNat < 4096) :
    decodeWord (0x1000#16 ||| a) = .ok (.jp (a.setWidth 12)) := by
  have hword : encode (.jp (a.setWidth 12)) = 0x1000#16 ||| addrOperand (a.setWidth 12) := append_nnn_eq_or 0x1#4 _
  rw [← addrOperand_setWidth h, ← hword, addrOperand_setWidth h]
  exact decodeIn_encode rfl

/-- A jump to where PC stood before the fetch advance undoes the advance. -/
theorem exec_jp_advance {s : State} {nnn : Imm12} (h : addrOperand nnn = s.pc) :
    exec (.jp nnn) s.advance = .next { s with status := .ok } := by
  simp only [exec, execJp, h, complete_eq]
  rfl

/-- Settles O56: the fetched word is the jump to PC, which undoes the fetch advance; the fetch reads no status. -/
theorem selfJumpIsAnEnd : Obligations.SelfJumpIsAnEnd := by
  unfold Obligations.SelfJumpIsAnEnd
  intro s hend
  obtain ⟨hrun, hfetch⟩ := hend
  obtain ⟨⟨_, hhigh⟩, _⟩ := State.fetch_eq_some.1 hfetch
  have haddr : s.pc.toNat < 4096 := Nat.lt_of_le_of_lt hhigh (by decide)
  refine ⟨?_, hrun, hfetch⟩
  rw [step_of_ok hrun hfetch (decodeWord_jumpTo haddr), exec_jp_advance (addrOperand_setWidth haddr)]

end Sys2Proof.Machine
end

section
/-! The timer driver (60_exceptions.md R247-R251): a tick in one equation, when it signals, and the debounce count over
a run. -/

namespace Sys2Proof.Machine

/-! ## One tick -/

theorem toNat_tickDelay (b : Byte) : (tickDelay b).toNat = b.toNat - 1 := by
  have := b.isLt
  rw [tickDelay, BitVec.toNat_ofNat]
  omega

theorem tickDelay_eq_zero {b : Byte} : tickDelay b = 0 ↔ b.toNat ≤ 1 := by
  rw [← BitVec.toNat_inj, toNat_tickDelay]
  exact Nat.sub_eq_zero_iff_le

/-- Both timers count down alike, and a tick that sees ST = 0 is one that leaves it at 0 (R247, R248, R250). -/
theorem State.tickTimers_snd (s : State) : s.tickTimers.2 =
    { s with
      dt := tickDelay s.dt, st := tickDelay s.st
      sndDb := debounceAfter soundDebounce s.sndDb (tickDelay s.st) } := by
  rw [State.tickTimers]
  rcases Nat.eq_zero_or_pos s.st.toNat with h0 | hpos
  · have hst : s.st = 0 := BitVec.eq_of_toNat_eq h0
    rw [State.tickWith_of_zero _ _ h0, hst]
    rfl
  · rw [State.tickWith_of_pos _ _ hpos]
    rfl

theorem State.tickTimers_st (s : State) : s.tickTimers.2.st = tickDelay s.st := by rw [s.tickTimers_snd]

theorem State.tickTimers_sndDb (s : State) :
    s.tickTimers.2.sndDb = debounceAfter soundDebounce s.sndDb (tickDelay s.st) := by rw [s.tickTimers_snd]

/-- The window is open when no count below the threshold runs (R248). -/
theorem debounceOpen_iff {k : Nat} {db : Option Nat} : debounceOpen k db = true ↔ ∀ n, db = some n → k ≤ n := by
  cases db <;> simp [debounceOpen]

/-- When a tick signals (R248, R249). -/
theorem State.tickSignals_iff {s : State} : s.tickSignals ↔
    soundEnabled = true ∧ 0 < s.st.toNat ∧ ∀ n, s.sndDb = some n → soundDebounce ≤ n := by
  rw [State.tickSignals, State.tickTimers, ← debounceOpen_iff]
  rcases Nat.eq_zero_or_pos s.st.toNat with h0 | hpos
  · simp [State.tickWith_of_zero _ _ h0, h0]
  · simp [State.tickWith_of_pos _ _ hpos, hpos, and_comm]

/-- Settles O53: the signal and the state after a tick, piece by piece. -/
theorem timersCountDownAndSignal : Obligations.TimersCountDownAndSignal := by
  unfold Obligations.TimersCountDownAndSignal
  intro s
  refine ⟨s.tickTimers.1, s.tickTimers.2, rfl, ?dt, ?st, State.tickSignals_iff, ?sndDb, ?frame⟩
  case dt => rw [s.tickTimers_snd]; exact toNat_tickDelay s.dt
  case st => rw [s.tickTimers_st]; exact toNat_tickDelay s.st
  case sndDb =>
    rw [s.tickTimers_sndDb, debounceAfter]
    simp only [tickDelay_eq_zero]
    cases s.sndDb <;> simp [debounceOpen]
  case frame => rw [s.tickTimers_snd]

/-! ## The debounce count over a run -/

/-- A count after a tick is 1, or one more than a count below the threshold. -/
theorem debounceAfter_eq_some {k m : Nat} {db : Option Nat} {st : Byte} (h : debounceAfter k db st = some m) :
    m = 1 ∨ ∃ n < k, db = some n ∧ m = n + 1 := by
  simp only [debounceAfter] at h
  split at h
  · cases h
  · cases db with
    | none => exact .inl (Option.some.inj h).symm
    | some n =>
      rcases Nat.lt_or_ge n k with hn | hn
      · have hm : n + 1 = m := by simpa [debounceOpen, hn.not_ge] using h
        exact .inr ⟨n, hn, rfl, hm.symm⟩
      · have hm : 1 = m := by simpa [debounceOpen, hn] using h
        exact .inl hm.symm

/-- A tick that leaves ST above 0 leaves a count (R248). -/
theorem exists_debounceAfter {k : Nat} {db : Option Nat} {st : Byte} (h : st ≠ 0) :
    ∃ m, debounceAfter k db st = some m := by
  rw [debounceAfter_of_ne h]
  cases db with
  | none => exact ⟨1, rfl⟩
  | some n => split <;> exact ⟨_, rfl⟩

/-- The step leaves the debounce state alone: no instruction writes it (R31). -/
theorem step_sndDb {s t : State} (h : step s = .next t) : t.sndDb = s.sndDb := by
  obtain ⟨_, ⟨_, rfl⟩ | ⟨_, i, _, _, hexec⟩ | ⟨_, _, _, _, rfl⟩⟩ := step_next h
  · rfl
  · exact exec_same hexec (sndDb_not_mem_writtenBy i) (by decide)
  · rfl

/-- Only a tick and a reset write the debounce state (10_state.md R31). -/
theorem transact_sndDb {s t : State} {o : HostOp} {r : HostReply} (htick : o ≠ .tickTimers)
    (hreset : ∀ p, o ≠ .reset p) (h : transact o s = .next (r, t)) : t.sndDb = s.sndDb := by
  cases o
  case reset p => exact absurd rfl (hreset p)
  case loadProgram => rw [transact_load_next h]
  case step => exact step_sndDb (transact_step_next h).1
  case tickTimers => exact absurd rfl htick
  all_goals cases h; rfl

/-- Over a run none of whose ticks leaves ST at 0 there is a count throughout, and it grows by at most one a tick. -/
theorem TicksApart.exists_count_le {n m : Nat} {s t : State} (h : TicksApart n s t) (hs : s.sndDb = some m) :
    ∃ k, t.sndDb = some k ∧ k ≤ m + n := by
  induction h with
  | start => exact ⟨m, hs, le_rfl⟩
  | @tick n _ t _ hst ih =>
    obtain ⟨k, hk, hle⟩ := ih hs
    rw [t.tickTimers_st] at hst
    rw [t.tickTimers_sndDb]
    obtain ⟨k', hk'⟩ := exists_debounceAfter hst
    refine ⟨k', hk', ?_⟩
    rcases debounceAfter_eq_some hk' with rfl | ⟨j, _, hj, rfl⟩
    · omega
    · obtain rfl : k = j := Option.some.inj (hk.symm.trans hj)
      omega
  | other _ htick hreset hop ih => rw [transact_sndDb htick hreset hop]; exact ih hs

/-- A tick that signals and leaves ST above 0 leaves the count at 1 (R248). -/
theorem State.sndDb_of_tickSignals {s : State} (hsig : s.tickSignals) (hst : s.tickTimers.2.st ≠ 0) :
    s.tickTimers.2.sndDb = some 1 := by
  obtain ⟨_, _, hopen⟩ := State.tickSignals_iff.1 hsig
  rw [s.tickTimers_st] at hst
  rw [s.tickTimers_sndDb, debounceAfter_of_ne hst, if_pos (debounceOpen_iff.2 hopen)]

/-- Settles O54: the first signal leaves the count at 1, n ticks bring it to n + 1 at most, and the next signal needs it
at the threshold. -/
theorem atMostOneSignalPerWindow : Obligations.AtMostOneSignalPerWindow := by
  unfold Obligations.AtMostOneSignalPerWindow
  refine ⟨fun n s t hsig hst hrun hsig' => ?apart, fun s hst hsilent => ?first⟩
  case apart =>
    obtain ⟨k, hk, hle⟩ := hrun.exists_count_le (State.sndDb_of_tickSignals hsig hst)
    obtain ⟨_, _, hopen⟩ := State.tickSignals_iff.1 hsig'
    have := hopen k hk
    omega
  case first => simp [State.tickSignals_iff, hst, hsilent]

end Sys2Proof.Machine
end

section
/-! The host's operations and the invariant (60_exceptions.md R251, R253). -/

namespace Sys2Proof.Machine

/-! ## Display, flags and keys -/

/-- Settles O55: each reply and each write is the operation's own; a key written is read back, every other as before. -/
theorem displayFlagsAndKeysForTheHost : Obligations.DisplayFlagsAndKeysForTheHost := by
  unfold Obligations.DisplayFlagsAndKeysForTheHost
  refine fun s => ⟨rfl, rfl, fun k held => ⟨s.setKey k held, rfl, fun j => ?_, rfl⟩⟩
  simp only [State.setKey, State.setKeys_keys, Vector.getElem_set, Fin.val_inj]
  simp only [eq_comm]

/-! ## Each operation keeps the invariant -/

/-- The state at construction meets the invariant (70_reset_and_hazards.md R282). -/
theorem State.reset_inv : State.reset.Inv := by
  refine ⟨State.reset_mem_wf, ?mark, ⟨by decide, by decide⟩, ?count⟩
  case mark => simp [State.markAgrees, State.reset]
  case count => intro k hk; cases hk

/-- A reset leaves canonical memory, and else only what the state at construction has (70_reset_and_hazards.md R280). -/
theorem State.Inv.hostReset {s : State} (h : s.Inv) (preserve : Bool) : (s.hostReset preserve).Inv := by
  obtain ⟨hmem, _⟩ := h
  obtain ⟨_, hmark, hpc, hdb⟩ := State.reset_inv
  exact ⟨Memory.wf_afterReset preserve hmem, hmark, hpc, hdb⟩

/-- A program load, refused or not, leaves memory canonical (70_reset_and_hazards.md R283). -/
theorem hostLoad_mem_wf {s : State} (bytes : List Byte) (hm : Memory.wf s.mem) :
    Memory.wf (hostLoad bytes s).2.mem := by
  unfold hostLoad
  split
  · exact State.loadProgram_wf ‹_› hm
  · exact hm

theorem State.Inv.load {s t : State} {bytes : List Byte} {r : HostReply} (h : s.Inv)
    (hload : transact (.loadProgram bytes) s = .next (r, t)) : t.Inv := by
  obtain ⟨hmem, hmark, hpc, hdb⟩ := h
  have hwf := hostLoad_mem_wf bytes hmem
  rw [Host.Outcome.next.inj hload] at hwf
  rw [transact_load_next hload]
  exact ⟨hwf, hmark, hpc, hdb⟩

/-- A tick keeps the debounce count between 1 and the threshold: only a count below the threshold goes up (R248). -/
theorem State.Inv.tickTimers {s : State} (h : s.Inv) : s.tickTimers.2.Inv := by
  obtain ⟨hmem, hmark, hpc, _⟩ := h
  rw [s.tickTimers_snd]
  refine ⟨hmem, hmark, hpc, fun m hm => ?_⟩
  rcases debounceAfter_eq_some hm with rfl | ⟨n, hn, _, rfl⟩
  · exact ⟨le_rfl, Nat.succ_pos _⟩
  · exact ⟨Nat.succ_pos n, hn⟩

/-- Every host operation keeps the invariant (R253). -/
theorem State.Inv.transact {s t : State} {o : HostOp} {r : HostReply} (h : s.Inv)
    (hop : transact o s = .next (r, t)) : t.Inv := by
  cases o
  case reset preserve => cases hop; exact h.hostReset preserve
  case loadProgram => exact h.load hop
  case step => exact stepKeepsInvariant s t h (transact_step_next hop).1
  case tickTimers => cases hop; exact h.tickTimers
  case display | consumeDirtyFlags | setKey => cases hop; exact h

/-- Every state a host can reach has the invariant (R251). -/
theorem Reachable.inv {s : State} (h : Reachable s) : s.Inv := by
  induction h with
  | reset => exact State.reset_inv
  | op _ hop ih => exact ih.transact hop

/-- Settles O49: an operation at a time, then by induction over the interleaving. -/
theorem everyTransactionKeepsInvariant : Obligations.EveryTransactionKeepsInvariant := by
  unfold Obligations.EveryTransactionKeepsInvariant
  exact ⟨fun _ _ _ _ h hop => h.transact hop, fun _ h => h.inv⟩

end Sys2Proof.Machine
end

section
/-! The state at construction, a reset and a program load (70_reset_and_hazards.md R280-R283). -/

namespace Sys2Proof.Machine

/-! ## Memory's reset contents (R40, R281) -/

theorem Memory.initial_font (a : Fin 80) : Memory.initial a.val = font[a.val] := dif_pos a.isLt

theorem Memory.initial_of_ge {a : Nat} (h : 80 ≤ a) : Memory.initial a = 0 := dif_neg h.not_gt

/-- In a canonical memory the first cell decides its own address alone. -/
theorem Memory.read_cons {d : Host.Cell} {m : Memory} (hm : Memory.wf (d :: m)) (a : Nat) :
    Memory.read (d :: m) a = if d.1 = a then d.2 else Memory.read m a := by
  obtain ⟨hlt, _⟩ := Memory.wf_cons.1 hm
  rw [Memory.read]
  by_cases ha : a < d.1
  · rw [if_pos ha, Memory.read_of_lt fun c hc => ha.trans (hlt c hc)]
  · rw [if_neg ha]

theorem Memory.wf_filter {m : Memory} (hm : Memory.wf m) (keep : Host.Cell → Bool) : Memory.wf (m.filter keep) :=
  ⟨hm.1.filter keep, fun c hc => hm.2 c (List.mem_filter.1 hc).1⟩

/-- An address whose cells a filter drops reads as the reset contents, every other address as before. -/
theorem Memory.read_filter {m : Memory} (hm : Memory.wf m) (keep : Nat → Bool) (a : Nat) :
    Memory.read (m.filter fun c => keep c.1) a = if keep a then Memory.read m a else Memory.initial a := by
  induction m with
  | nil => exact (ite_self _).symm
  | cons d m ih =>
    have hfilter := Memory.wf_filter hm fun c => keep c.1
    obtain ⟨_, _, htail⟩ := Memory.wf_cons.1 hm
    rw [List.filter_cons] at hfilter ⊢
    rw [Memory.read_cons hm]
    cases hd : keep d.1 with
    | true =>
      rw [if_pos hd] at hfilter
      rw [if_pos rfl, Memory.read_cons hfilter, ih htail]
      rcases eq_or_ne d.1 a with rfl | ha
      · rw [if_pos rfl, if_pos rfl, if_pos hd]
      · rw [if_neg ha, if_neg ha]
    | false =>
      rw [if_neg Bool.false_ne_true, ih htail]
      rcases eq_or_ne d.1 a with rfl | ha
      · rw [hd, if_neg Bool.false_ne_true, if_neg Bool.false_ne_true]
      · rw [if_neg ha]

/-! ## Reset (R280, R281) -/

/-- Only a preserving reset keeps a byte, and only above the font. -/
theorem Memory.read_afterReset {m : Memory} (hm : Memory.wf m) (preserve : Bool) (a : Nat) :
    (m.afterReset preserve).read a = if preserve ∧ fontSize ≤ a then m.read a else Memory.initial a := by
  cases preserve with
  | false => rfl
  | true => simpa [Memory.afterReset] using Memory.read_filter hm (fun b => decide (fontSize ≤ b)) a

theorem Memory.read_afterReset_font {m : Memory} (hm : Memory.wf m) (preserve : Bool) (a : Fin 80) :
    (m.afterReset preserve).read a.val = font[a.val] := by
  rw [Memory.read_afterReset hm, if_neg fun h => h.2.not_gt a.isLt, Memory.initial_font]

theorem Memory.read_afterReset_of_ge {m : Memory} (hm : Memory.wf m) (preserve : Bool) {a : Nat} (h : 80 ≤ a) :
    (m.afterReset preserve).read a = if preserve then m.read a else 0 := by
  rw [Memory.read_afterReset hm, Memory.initial_of_ge h]
  simp only [fontSize, h, and_true]

/-- Settles O51: the bytes of memory after a reset; every other piece of state is written out in it. -/
theorem hostResetReinitializes : Obligations.HostResetReinitializes := by
  unfold Obligations.HostResetReinitializes
  exact fun s preserve hm => ⟨s.hostReset preserve, rfl, Memory.read_afterReset_font hm preserve,
    fun _ hfont _ => Memory.read_afterReset_of_ge hm preserve hfont, rfl⟩

/-! ## Program load (R283) -/

theorem transact_loadProgram_of_gt {s : State} {bytes : List Byte} (h : maxProgram < bytes.length) :
    transact (.loadProgram bytes) s = .next (.tooLarge, s) := by
  rw [transact, hostLoad, State.loadProgram, if_neg h.not_ge]

theorem transact_loadProgram_of_le {s : State} {bytes : List Byte} (h : bytes.length ≤ maxProgram) :
    transact (.loadProgram bytes) s = .next (.loaded, s.setMem (s.mem.writeBytes progBase bytes)) := by
  rw [transact, hostLoad, State.loadProgram, if_pos h]

/-- Settles O52: a program that fits ends at the top of memory at the latest, and the load is one block write. -/
theorem loadProgramCopiesOrRefuses : Obligations.LoadProgramCopiesOrRefuses := by
  unfold Obligations.LoadProgramCopiesOrRefuses
  refine fun s bytes hm => ⟨transact_loadProgram_of_gt, fun hle => ?fits⟩
  case fits =>
    have hrange : 0x200 + bytes.length ≤ memSize := Nat.add_le_add_left hle 0x200
    exact ⟨_, transact_loadProgram_of_le hle, fun k b hk => Memory.read_writeBytes_of_getElem? hrange hm hk,
      sameBytesOutside_writeBytes hrange hm, rfl⟩

/-! ## Construction (R40, R282) -/

/-- Settles O47, by the invariant's base case. -/
theorem resetMeetsInvariant : Obligations.ResetMeetsInvariant := State.reset_inv

/-- Settles O50: memory lists nothing, so it reads as the reset contents; every other piece is a literal. -/
theorem constructionState : Obligations.ConstructionState := by
  unfold Obligations.ConstructionState
  exact ⟨fun x => Vector.getElem_replicate x.isLt, rfl, rfl, rfl, fun k => Vector.getElem_replicate k.isLt, rfl, rfl,
    rfl, Display.pixel_blank, rfl, rfl, fun k => Vector.getElem_replicate k.isLt, rfl, rfl, Memory.initial_font,
    fun _ => Memory.initial_of_ge⟩

end Sys2Proof.Machine
end
